-- ==== Sys2Proof/Word.lean ====
section
/-! DEFINITION. The word types of the GF8-SSS core and the concatenation of a command word. -/

namespace Sys2Proof

/-- A field element, an array index, a count: one byte (00_scope.md R3, R9). -/
abbrev Byte := BitVec 8

/-- A register of the window and a command word: 32 bits (10_state.md R15, 30_encoding.md R44). -/
abbrev Word := BitVec 32

/-- The word `{op, a, b, c}`, `op` in the high bits (30_encoding.md R44; 00_scope.md R9 for the braces). -/
abbrev Word.mk (op a b c : Byte) : Word := op ++ a ++ b ++ c

end Sys2Proof
end

