-- ==== Sys2Proof/Syntax.lean ====
section
/-! DEFINITION. The commands of the core, one constructor per row of spec/opcode_table.json
(30_encoding.md R46), and the assembler's lines (R51), which are the source form of commands. -/

namespace Sys2Proof

/-- The ten commands. Every operand is an unsigned byte used as is (R45). -/
inductive Instr where
  | nop
  | gfAdd (a b : Byte)
  | gfMul (a b : Byte)
  | gfInv (a : Byte)
  | gfDiv (a b : Byte)
  | coefWr (i v : Byte)
  | polyEval (x n : Byte)
  | ptWr (i x y : Byte)
  | interp0 (k : Byte)
  | zeroize
deriving DecidableEq, Repr

/-- A line of the assembler: a mnemonic and its operands, integers not yet checked (R51). -/
structure AsmLine where
  mnemonic : String
  operands : List Nat
deriving DecidableEq, Repr

/-- The line that writes a command, in R51's syntax. -/
def Instr.asm : Instr → AsmLine
  | .nop => ⟨"nop", []⟩
  | .gfAdd a b => ⟨"gf.add", [a.toNat, b.toNat]⟩
  | .gfMul a b => ⟨"gf.mul", [a.toNat, b.toNat]⟩
  | .gfInv a => ⟨"gf.inv", [a.toNat]⟩
  | .gfDiv a b => ⟨"gf.div", [a.toNat, b.toNat]⟩
  | .coefWr i v => ⟨"coef.wr", [i.toNat, v.toNat]⟩
  | .polyEval x n => ⟨"poly.eval", [x.toNat, n.toNat]⟩
  | .ptWr i x y => ⟨"pt.wr", [i.toNat, x.toNat, y.toNat]⟩
  | .interp0 k => ⟨"interp0", [k.toNat]⟩
  | .zeroize => ⟨"zeroize", []⟩

end Sys2Proof
end

