-- ==== Sys2Proof/WellFormed.lean ====
section
/-! DEFINITION. When a line of the assembler is well formed: its mnemonic is one of R51's, it has
that mnemonic's number of operands, and each operand is in 0..255 ("An operand out of 0..255 is an
assembler error, not a command"). A command `Instr` holds bytes, so its own line is always well
formed (`Laws.instr_wf`). -/

namespace Sys2Proof

/-- R51: how many operands a mnemonic takes; none for a name that is no mnemonic. -/
def AsmLine.arity (m : String) : Option Nat :=
  if m = "nop" ∨ m = "zeroize" then some 0
  else if m = "gf.inv" ∨ m = "interp0" then some 1
  else if m = "gf.add" ∨ m = "gf.mul" ∨ m = "gf.div" ∨ m = "coef.wr" ∨ m = "poly.eval" then some 2
  else if m = "pt.wr" then some 3
  else none

/-- The mnemonic is one of the ten. -/
def AsmLine.mnemonicOk (l : AsmLine) : Bool := (AsmLine.arity l.mnemonic).isSome

/-- The number of operands is the mnemonic's. -/
def AsmLine.arityOk (l : AsmLine) : Bool := AsmLine.arity l.mnemonic == some l.operands.length

/-- Every operand is in 0..255. -/
def AsmLine.rangeOk (l : AsmLine) : Bool := l.operands.all (· < 256)

/-- R51: the line is a command, not an assembler error. -/
def AsmLine.wf (l : AsmLine) : Bool := l.mnemonicOk && l.arityOk && l.rangeOk

/-- A command is well formed when its line is; with byte operands this holds of every command. -/
def Instr.wf (i : Instr) : Bool := i.asm.wf

end Sys2Proof
end

