-- ==== Sys2Proof/Decode.lean ====
section
/-! DEFINITION. The encoding of commands (30_encoding.md): fields, opcode map, decoder, encoder,
assembler, and the byte lanes of a word (20_memory.md R31). -/

namespace Sys2Proof

/-! ## Fields (R44) -/

/-- Bits 31:24. -/
def fieldOp (w : Word) : Byte := w.extractLsb' 24 8
/-- Bits 23:16. -/
def fieldA (w : Word) : Byte := w.extractLsb' 16 8
/-- Bits 15:8. -/
def fieldB (w : Word) : Byte := w.extractLsb' 8 8
/-- Bits 7:0. -/
def fieldC (w : Word) : Byte := w.extractLsb' 0 8

/-! ## Byte lanes (20_memory.md R31): bits 7:0 at the lowest address -/

/-- The four lanes of a word, the lane of offset + 0 first. -/
def wordLanes (w : Word) : List Byte := [fieldC w, fieldB w, fieldA w, fieldOp w]

/-- The word whose lanes are given; only whole words exist (R30). -/
def wordOfLanes : List Byte → Option Word
  | [l0, l1, l2, l3] => some (Word.mk l3 l2 l1 l0)
  | _ => none

/-! ## Decoding (R46 to R50) -/

/-- Why a word, or a sequence of bytes, is no command. -/
inductive DecodeError where
  /-- R48: OP is none of the ten. -/
  | undefinedOpcode (op : Byte)
  /-- R47: a defined OP with a non-zero bit in an unused field. -/
  | unusedFieldNonZero (op : Byte)
  /-- R49: a command is exactly one 32-bit word. -/
  | notOneWord
deriving DecidableEq, Repr

/-- R50: the decode of a command word, total on all words. -/
def decode (w : Word) : Except DecodeError Instr :=
  let op := fieldOp w
  let a := fieldA w
  let b := fieldB w
  let c := fieldC w
  if op = 0x00#8 then
    if a = 0 ∧ b = 0 ∧ c = 0 then .ok .nop else .error (.unusedFieldNonZero op)
  else if op = 0x01#8 then
    if c = 0 then .ok (.gfAdd a b) else .error (.unusedFieldNonZero op)
  else if op = 0x02#8 then
    if c = 0 then .ok (.gfMul a b) else .error (.unusedFieldNonZero op)
  else if op = 0x03#8 then
    if b = 0 ∧ c = 0 then .ok (.gfInv a) else .error (.unusedFieldNonZero op)
  else if op = 0x04#8 then
    if c = 0 then .ok (.gfDiv a b) else .error (.unusedFieldNonZero op)
  else if op = 0x10#8 then
    if c = 0 then .ok (.coefWr a b) else .error (.unusedFieldNonZero op)
  else if op = 0x11#8 then
    if c = 0 then .ok (.polyEval a b) else .error (.unusedFieldNonZero op)
  else if op = 0x20#8 then .ok (.ptWr a b c)
  else if op = 0x21#8 then
    if b = 0 ∧ c = 0 then .ok (.interp0 a) else .error (.unusedFieldNonZero op)
  else if op = 0x30#8 then
    if a = 0 ∧ b = 0 ∧ c = 0 then .ok .zeroize else .error (.unusedFieldNonZero op)
  else .error (.undefinedOpcode op)

/-- Decoding of the bytes of a command as the bus carries them, total on any bytes. -/
def decodeBytes (bytes : List Byte) : Except DecodeError Instr :=
  match wordOfLanes bytes with
  | some w => decode w
  | none => .error .notOneWord

/-- The word whose bits are `w`, numbered as spec/opcode_table.json numbers them, `nbits` of them
given and the rest zero. -/
def tableWord (nbits w : Nat) : Word := BitVec.ofNat 32 (w % 2 ^ nbits)

/-- The instruction the decoder reads from an instruction whose bits are `w`. -/
def decodeTableWord (nbits w : Nat) : Option Instr :=
  match decodeBytes (wordLanes (tableWord nbits w)) with
  | .ok i => some i
  | .error _ => none

/-! ## Encoding (R46) -/

/-- The OP byte of a command. -/
def Instr.opcode : Instr → Byte
  | .nop => 0x00#8
  | .gfAdd _ _ => 0x01#8
  | .gfMul _ _ => 0x02#8
  | .gfInv _ => 0x03#8
  | .gfDiv _ _ => 0x04#8
  | .coefWr _ _ => 0x10#8
  | .polyEval _ _ => 0x11#8
  | .ptWr _ _ _ => 0x20#8
  | .interp0 _ => 0x21#8
  | .zeroize => 0x30#8

/-- The word of a command. -/
def encode : Instr → Word
  | .nop => Word.mk 0x00#8 0 0 0
  | .gfAdd a b => Word.mk 0x01#8 a b 0
  | .gfMul a b => Word.mk 0x02#8 a b 0
  | .gfInv a => Word.mk 0x03#8 a 0 0
  | .gfDiv a b => Word.mk 0x04#8 a b 0
  | .coefWr i v => Word.mk 0x10#8 i v 0
  | .polyEval x n => Word.mk 0x11#8 x n 0
  | .ptWr i x y => Word.mk 0x20#8 i x y
  | .interp0 k => Word.mk 0x21#8 k 0 0
  | .zeroize => Word.mk 0x30#8 0 0 0

/-! ## The opcode map as data (R46) -/

/-- A row of R46: a word selects it when its bits under `mask` are `pattern`. -/
structure OpcodeRow where
  mnemonic : String
  pattern : Word
  mask : Word
deriving DecidableEq, Repr

/-- The word `w` selects the row. -/
def OpcodeRow.selects (r : OpcodeRow) (w : Word) : Bool := w &&& r.mask == r.pattern

/-- The ten rows of R46, `pattern` being its column `match`. -/
def opcodeRows : List OpcodeRow :=
  [⟨"NOP", 0x00000000#32, 0xFFFFFFFF#32⟩, ⟨"GF_ADD", 0x01000000#32, 0xFF0000FF#32⟩,
   ⟨"GF_MUL", 0x02000000#32, 0xFF0000FF#32⟩, ⟨"GF_INV", 0x03000000#32, 0xFF00FFFF#32⟩,
   ⟨"GF_DIV", 0x04000000#32, 0xFF0000FF#32⟩, ⟨"COEF_WR", 0x10000000#32, 0xFF0000FF#32⟩,
   ⟨"POLY_EVAL", 0x11000000#32, 0xFF0000FF#32⟩, ⟨"PT_WR", 0x20000000#32, 0xFF000000#32⟩,
   ⟨"INTERP0", 0x21000000#32, 0xFF00FFFF#32⟩, ⟨"ZEROIZE", 0x30000000#32, 0xFFFFFFFF#32⟩]

/-- The mnemonic of a command's row. -/
def Instr.mnemonic : Instr → String
  | .nop => "NOP"
  | .gfAdd _ _ => "GF_ADD"
  | .gfMul _ _ => "GF_MUL"
  | .gfInv _ => "GF_INV"
  | .gfDiv _ _ => "GF_DIV"
  | .coefWr _ _ => "COEF_WR"
  | .polyEval _ _ => "POLY_EVAL"
  | .ptWr _ _ _ => "PT_WR"
  | .interp0 _ => "INTERP0"
  | .zeroize => "ZEROIZE"

/-! ## The assembler (R51) -/

/-- An operand as the byte it stands for; outside 0..255 it is an assembler error. -/
def asmByte (n : Nat) : Option Byte := if n < 256 then some (BitVec.ofNat 8 n) else none

/-- The command a line stands for; none is an assembler error. -/
def AsmLine.parse (l : AsmLine) : Option Instr :=
  match l.operands.mapM asmByte with
  | none => none
  | some [] =>
    if l.mnemonic = "nop" then some .nop
    else if l.mnemonic = "zeroize" then some .zeroize
    else none
  | some [a] =>
    if l.mnemonic = "gf.inv" then some (.gfInv a)
    else if l.mnemonic = "interp0" then some (.interp0 a)
    else none
  | some [a, b] =>
    if l.mnemonic = "gf.add" then some (.gfAdd a b)
    else if l.mnemonic = "gf.mul" then some (.gfMul a b)
    else if l.mnemonic = "gf.div" then some (.gfDiv a b)
    else if l.mnemonic = "coef.wr" then some (.coefWr a b)
    else if l.mnemonic = "poly.eval" then some (.polyEval a b)
    else none
  | some [a, b, c] => if l.mnemonic = "pt.wr" then some (.ptWr a b c) else none
  | some _ => none

/-- R51: the word of a line. -/
def AsmLine.assemble (l : AsmLine) : Option Word := l.parse.map encode

end Sys2Proof
end

