-- ==== Sys2Proof/Machine/Field.lean ====
section
/-! DEFINITION. The field functions of 40_field_arithmetic.md section 1, over the 9-bit polynomial
`p` that an implementation takes as FIELD_POLY, and the powers from which its tables are built.
A byte stands for the polynomial whose coefficient of x^i is its bit i (00_scope.md R11). -/

namespace Sys2Proof.Machine

/-- R53: addition, and subtraction, is bitwise exclusive OR. -/
def gfAdd (a b : Byte) : Byte := a ^^^ b

/-- R54: the product of `v` and the element x. -/
def xtime (p : BitVec 9) (v : Byte) : Byte :=
  (v <<< 1) ^^^ (if v.getLsbD 7 then p.extractLsb' 0 8 else 0x00#8)

/-- One turn of R55's loop: the accumulator `r` times x, plus `a` where the bit of `b` is set. -/
def gfMulTurn (p : BitVec 9) (a b r : Byte) (i : Nat) : Byte :=
  if b.getLsbD i then xtime p r ^^^ a else xtime p r

/-- R55: the bit-serial product, most significant bit of `b` first. -/
def gfMul (p : BitVec 9) (a b : Byte) : Byte :=
  [7, 6, 5, 4, 3, 2, 1, 0].foldl (gfMulTurn p a b) 0x00#8

/-- `a` to the power `n`, by repeated `gfMul`. -/
def gfPow (p : BitVec 9) (a : Byte) : Nat → Byte
  | 0 => 0x01#8
  | n + 1 => gfMul p (gfPow p a n) a

/-- R57: the inverse of a non-zero byte, in the form a^254 that R57 gives (a^2, a^4, ..., a^128
multiplied together, since 254 = 2 + 4 + ... + 128). `gfInv p 0` has no meaning and no command
asks for it. -/
def gfInv (p : BitVec 9) (a : Byte) : Byte :=
  let a2 := gfMul p a a
  let a4 := gfMul p a2 a2
  let a8 := gfMul p a4 a4
  let a16 := gfMul p a8 a8
  let a32 := gfMul p a16 a16
  let a64 := gfMul p a32 a32
  let a128 := gfMul p a64 a64
  gfMul p (gfMul p (gfMul p a2 a4) (gfMul p a8 a16)) (gfMul p (gfMul p a32 a64) a128)

/-- R58: division by a non-zero byte. -/
def gfDiv (p : BitVec 9) (a b : Byte) : Byte := gfMul p a (gfInv p b)

/-- The list `r, r·g, r·g², …` of `n` elements. -/
def gfOrbit (p : BitVec 9) (g : Byte) : Nat → Byte → List Byte
  | 0, _ => []
  | n + 1, r => r :: gfOrbit p g n (gfMul p r g)

/-- `g` is a primitive element: its multiplicative order is 255, that is g^255 = 1 and none of
g^1, …, g^254 is 1 (00_scope.md R6, R7). -/
def isPrimitive (p : BitVec 9) (g : Byte) : Bool :=
  (gfOrbit p g 254 g).all (· != 0x01#8) && gfPow p g 255 == 0x01#8

end Sys2Proof.Machine
end

