-- ==== Sys2Proof/Config.lean ====
section
/-! DEFINITION. The parameters of an implementation (00_scope.md R6 to R8): FIELD_POLY, MUL_IMPL
with GEN, and BASE. A `Config` carries the proofs that its values are legal, so every statement
about all configurations is one about all legal parameter values. -/

namespace Sys2Proof

/-- R7: the 30 legal values of FIELD_POLY. -/
abbrev Config.legalPolys : List (BitVec 9) :=
  [0x11B#9, 0x11D#9, 0x12B#9, 0x12D#9, 0x139#9, 0x13F#9, 0x14D#9, 0x15F#9, 0x163#9, 0x165#9] ++
  [0x169#9, 0x171#9, 0x177#9, 0x17B#9, 0x187#9, 0x18B#9, 0x18D#9, 0x19F#9, 0x1A3#9, 0x1A9#9] ++
  [0x1B1#9, 0x1BD#9, 0x1C3#9, 0x1CF#9, 0x1D7#9, 0x1DD#9, 0x1E7#9, 0x1F3#9, 0x1F5#9, 0x1F9#9]

/-- R25: the tables of a LOG_TABLE core are ROM, or RAM filled by the initialisation. -/
inductive TableStore where
  | rom
  | ram
deriving DecidableEq, Repr

/-- R6: MUL_IMPL, with GEN where it has a meaning (LOG_TABLE). -/
inductive MulImpl where
  | logTable (gen : Byte) (store : TableStore)
  | bitSerial
deriving DecidableEq, Repr

/-- R6: GEN is a primitive element of GF(2)[x]/(FIELD_POLY) when MUL_IMPL = LOG_TABLE. -/
def MulImpl.genLegal (p : BitVec 9) : MulImpl → Bool
  | .logTable g _ => Machine.isPrimitive p g
  | .bitSerial => true

/-- The parameters of one core; constants of the implementation (R8). -/
structure Config where
  fieldPoly : BitVec 9
  mulImpl : MulImpl
  base : Nat
  poly_legal : fieldPoly ∈ Config.legalPolys
  gen_legal : mulImpl.genLegal fieldPoly = true
  base_aligned : base % 32 = 0
deriving DecidableEq, Repr

set_option maxRecDepth 20000 in
/-- The recommended instance of R6 (FIELD_POLY = 0x11D, GEN = 0x02) with MUL_IMPL = LOG_TABLE, RAM
tables and BASE = 0: the parameters of `State.reset` (DESIGN CHOICE, log entry 1). -/
def Config.recommended : Config where
  fieldPoly := 0x11D#9
  mulImpl := .logTable 0x02#8 .ram
  base := 0
  poly_legal := by decide
  gen_legal := by decide
  base_aligned := by decide

end Sys2Proof
end

