-- ==== Sys2Proof/Machine/Memory.lean ====
section
/-! DEFINITION. The entry memories of the core (COEF, PX, PY, and the tables EXP, LOG): byte entries
at indices 0..255 (10_state.md R22, R25; 20_memory.md R29), held as (index, byte) cells in one
canonical form: indices strictly rising, no cell 0x00, since an index not listed reads 0x00, the
contents the spec gives after the initialisation (70_reset_and_hazards.md R92, R93). -/

namespace Sys2Proof.Machine

/-- The cells of one array. -/
abbrev Memory := List Host.Cell

/-- What an unlisted index reads as (R92: every entry is 0x00 when the initialisation ends). -/
def Memory.blank : Byte := 0x00#8

/-- `COEF[i]`: the read of one entry (00_scope.md R10). -/
def Memory.read : Memory → Byte → Byte
  | [], _ => Memory.blank
  | (j, v) :: m, i => if j = i.toNat then v else Memory.read m i

/-- The cells but for those at index `i`. -/
def Memory.without (m : Memory) (i : Byte) : Memory := m.filter (fun c => c.1 != i.toNat)

/-- A cell put in front of the first one with a higher index. -/
def Memory.place (c : Host.Cell) : Memory → Memory
  | [] => [c]
  | d :: m => if c.1 < d.1 then c :: d :: m else d :: Memory.place c m

/-- `COEF[i] <- v`: the write of one entry (00_scope.md R10). -/
def Memory.write (m : Memory) (i v : Byte) : Memory :=
  if v = Memory.blank then Memory.without m i else Memory.place (i.toNat, v) (Memory.without m i)

/-- The canonical form: from `low` on, indices strictly rising and below 256, no blank cell. -/
def Memory.wfFrom : Nat → Memory → Bool
  | _, [] => true
  | low, (j, v) :: m => low ≤ j && j < 256 && v != Memory.blank && Memory.wfFrom (j + 1) m

/-- The canonical form. -/
def Memory.wf (m : Memory) : Bool := Memory.wfFrom 0 m

/-- The memory whose entries from index `k` on are the bytes of a list. -/
def Memory.ofBytes : Nat → List Byte → Memory
  | _, [] => []
  | k, v :: vs => if v = Memory.blank then Memory.ofBytes (k + 1) vs else (k, v) :: Memory.ofBytes (k + 1) vs

end Sys2Proof.Machine
end

