-- ==== Sys2Proof/Machine/Tables.lean ====
section
/-! DEFINITION. The EXP and LOG tables of a LOG_TABLE core (10_state.md R25) and the multiplier and
inverter that read them (40_field_arithmetic.md R56, R57). No observation depends on them
(10_state.md R25, 40_field_arithmetic.md R56): the meanings of commands use the field functions of
Machine/Field.lean, and statements say that the table forms give the same bytes (log entry 4). -/

namespace Sys2Proof.Machine

/-- GEN^0, GEN^1, …, GEN^254. -/
def expList (p : BitVec 9) (g : Byte) : List Byte := gfOrbit p g 255 0x01#8

/-- R25: EXP[i] = GEN^i for i = 0..254. -/
def expTable (p : BitVec 9) (g : Byte) : Memory := Memory.ofBytes 0 (expList p g)

/-- The place of `v` in a list that holds it. -/
def placeOf (v : Byte) : List Byte → Nat
  | [] => 0
  | u :: us => if u = v then 0 else placeOf v us + 1

/-- R25: LOG[EXP[i]] = i; entries 1..255. LOG[0] has no meaning and no cell. -/
def logTable (p : BitVec 9) (g : Byte) : Memory :=
  Memory.ofBytes 1 ((List.range 255).map fun n => BitVec.ofNat 8 (placeOf (BitVec.ofNat 8 (n + 1)) (expList p g)))

/-- R25: the read of LOG, which has no value at 0. -/
def readLog (log : Memory) (v : Byte) : Option Nat :=
  if v = 0x00#8 then none else some (log.read v).toNat

/-- EXP at an index taken modulo 255, the order of GEN. -/
def readExp (exp : Memory) (n : Nat) : Byte := exp.read (BitVec.ofNat 8 (n % 255))

/-- R56: the product by tables; the zero test comes before any read of LOG. -/
def tableMul (exp log : Memory) (a b : Byte) : Byte :=
  match readLog log a, readLog log b with
  | some la, some lb => readExp exp (la + lb)
  | _, _ => 0x00#8

/-- R57: the inverse by tables; none for 0, which has no inverse. -/
def tableInv (exp log : Memory) (a : Byte) : Option Byte :=
  (readLog log a).map fun la => readExp exp (255 - la)

/-- The EXP and LOG tables that a finished initialisation leaves (R25, R92); none without LOG_TABLE. -/
def builtExp (cfg : Config) : Memory :=
  match cfg.mulImpl with
  | .logTable g _ => expTable cfg.fieldPoly g
  | .bitSerial => []

def builtLog (cfg : Config) : Memory :=
  match cfg.mulImpl with
  | .logTable g _ => logTable cfg.fieldPoly g
  | .bitSerial => []

/-- The tables are ROM (or absent): they hold their values at all times, the initialisation too. -/
def tablesFixed (cfg : Config) : Bool :=
  match cfg.mulImpl with
  | .logTable _ .ram => false
  | .logTable _ .rom => true
  | .bitSerial => true

end Sys2Proof.Machine
end

