-- ==== Sys2Proof/Machine/State.lean ====
section
/-! DEFINITION. The state of the machine (10_state.md), its faults and refusals, and reset.

Three kinds of fields stand side by side and are kept apart: the configuration (`cfg`, which no step
changes, 00_scope.md R8), the state the spec gives the core, and the model's own record of the
surroundings (`delay`, `delays`, `host`, `hostLog`; log entries 2 and 3). -/

namespace Sys2Proof.Machine

/-- One bus access: its address on the host bus and its width in bytes. Only aligned 4-byte
accesses inside the window have a meaning (20_memory.md R30). -/
structure Access where
  addr : Nat
  bytes : Nat
deriving DecidableEq, Repr

/-- What the host or the platform does next. `read`, `write` are R10's BusRead, BusWrite; `wait`,
`check`, `rd` are the pseudo-instructions of 30_encoding.md R52 (the others expand into these,
Machine/HostProgram.lean); `bootClear`, `bootInfo` are steps 2 and 3 of the boot order
(70_reset_and_hazards.md R94); the last two drive the reset input (R91). -/
inductive HostOp where
  | read (acc : Access) (name : Nat)
  | write (acc : Access) (w : Word)
  | wait
  | check
  | rd (name : Nat)
  | bootClear
  | bootInfo (poly : Byte)
  | assertReset
  | releaseReset
deriving DecidableEq, Repr

/-- Why the machine stops with a fault. Both are stops of the HOST's program, asked for by the spec;
no command of the core faults (its errors are the record ERR, ERRINFO). Both are safe: nothing is
claimed of what such a host does afterwards. -/
inductive Fault where
  /-- `check` (30_encoding.md R52): "the program stops with failure". Raised by `HostOp.check`. Safe. -/
  | checkFailed
  /-- 70_reset_and_hazards.md R94 (3): the host refuses to use a core whose INFO does not fit.
  Raised by `HostOp.bootInfo`. Safe. -/
  | infoMismatch
deriving DecidableEq, Repr

/-- Why the model gives no meaning. All are safe: the model has no run there. -/
inductive Refusal where
  /-- An instruction whose meaning is not written yet. Raised by `exec` only; no arm does so now. Safe. -/
  | notModelled (mnemonic : String)
  /-- 20_memory.md R30: an access that is not an aligned 32-bit one. Raised by a host access. Safe. -/
  | badAccess
  /-- 20_memory.md R37: the address is outside the core's window; what lies there is the platform's.
  Raised by a host access. Safe. -/
  | outsideWindow
  /-- 70_reset_and_hazards.md R91: an access while reset is asserted. Raised by a host access. Safe. -/
  | accessDuringReset
deriving DecidableEq, Repr

/-- The whole state. -/
structure State where
  /-- The parameters of this core (00_scope.md R6). -/
  cfg : Config
  /-- STATUS.BUSY (10_state.md R16). -/
  busy : Bool
  /-- STATUS.DONE (R16). -/
  done : Bool
  /-- STATUS.OVR (R16). -/
  ovr : Bool
  /-- STATUS.ERR (R16). -/
  err : BitVec 4
  /-- STATUS.ERRINFO (R16). -/
  errInfo : Byte
  /-- RESULT.RES (R18). -/
  res : Byte
  /-- COEF (R22). -/
  coef : Memory
  /-- PX (R22). -/
  px : Memory
  /-- PY (R22). -/
  py : Memory
  /-- EXP (R25). -/
  expTab : Memory
  /-- LOG (R25). -/
  logTab : Memory
  /-- The command accepted and not yet completed (R23). -/
  pending : Option Word
  /-- The initialisation after reset has not ended (R23). -/
  initialising : Bool
  /-- The reset input is asserted (70_reset_and_hazards.md R91). -/
  resetIn : Bool
  /-- MODEL: turns left before the core's own step (completion or end of the initialisation). -/
  delay : Nat
  /-- MODEL: the delays of the commands and initialisations still to start, free (R100). -/
  delays : List Nat
  /-- MODEL: what the host and the platform will still do, in order (20_memory.md R40). -/
  host : List HostOp
  /-- MODEL: what the host has read, newest first, under the names it gave. -/
  hostLog : List (Nat × Word)
deriving DecidableEq, Repr

/-- The core with parameters `cfg` right after its reset (70_reset_and_hazards.md R91): initialising,
STATUS = 0x00000001, RESULT = 0x00. The reset input is released again (log entry 8), the arrays,
which nothing can observe before the initialisation ends, hold 0x00 (log entry 5), a ROM table holds
its constants and a RAM table nothing yet (log entry 6). Nothing is asked of the core (log entry 3). -/
def State.resetWith (cfg : Config) : State where
  cfg := cfg
  busy := true
  done := false
  ovr := false
  err := 0#4
  errInfo := 0x00#8
  res := 0x00#8
  coef := []
  px := []
  py := []
  expTab := if tablesFixed cfg then builtExp cfg else []
  logTab := if tablesFixed cfg then builtLog cfg else []
  pending := none
  initialising := true
  resetIn := false
  delay := 0
  delays := []
  host := []
  hostLog := []

/-- The machine right after reset, with the recommended parameters of R6 (log entry 1). -/
def State.reset : State := State.resetWith Config.recommended

end Sys2Proof.Machine
end

