-- ==== Sys2Proof/Machine/Flags.lean ====
section
/-! DEFINITION. The flags of the core: the fields of STATUS (10_state.md R16, R26), the error codes
(60_exceptions.md R77), and the STATUS word. No command sets a flag from its arithmetic (R26). -/

namespace Sys2Proof.Machine

/-- R77: the seven errors. -/
inductive ErrKind where
  | illegalCmd
  | cfgCount
  | cfgXzero
  | divZero
  | consFewpoints
  | consIdzero
  | consDupid
deriving DecidableEq, Repr

/-- R77: the code that STATUS.ERR records. -/
def errCode : ErrKind → BitVec 4
  | .illegalCmd => 1#4
  | .cfgCount => 2#4
  | .cfgXzero => 3#4
  | .divZero => 4#4
  | .consFewpoints => 5#4
  | .consIdzero => 6#4
  | .consDupid => 7#4

/-- R16: the STATUS word. Bits 3 and 31:16 read 0. -/
def State.statusWord (s : State) : Word :=
  (0#16) ++ s.errInfo ++ s.err ++ (0#1) ++ BitVec.ofBool s.ovr ++ BitVec.ofBool s.done ++ BitVec.ofBool s.busy

/-- The fields of a STATUS word as the host reads them (30_encoding.md R52, R16). -/
def statusBusy (w : Word) : Bool := w.getLsbD 0
def statusDone (w : Word) : Bool := w.getLsbD 1
def statusOvr (w : Word) : Bool := w.getLsbD 2
def statusErr (w : Word) : BitVec 4 := w.extractLsb' 4 4
def statusErrInfo (w : Word) : Byte := w.extractLsb' 8 8

/-- 20_memory.md R32: a CMD write is accepted. -/
def State.accepts (s : State) : Bool := !s.busy && s.err == 0#4 && !s.ovr

/-- R52: the condition under which `check` lets a host program go on. -/
def checkPasses (w : Word) : Bool := statusDone w && !statusOvr w && statusErr w == 0#4

end Sys2Proof.Machine
end

