-- ==== Sys2Proof/Machine/Operands.lean ====
section
/-! DEFINITION. What an operand of a command or of a bus access selects: the registers of the window
(10_state.md R15 to R21; 20_memory.md R30), the words they read as, and the conditions that INTERP0
puts on its points (42_lagrange.md R71). The operands of commands are the bytes of the command word,
used as they are (30_encoding.md R45). -/

namespace Sys2Proof.Machine

/-! ## The register window -/

/-- R15: the eight registers. -/
inductive Reg where
  | cmd
  | status
  | result
  | ctrl
  | info
  | rsvd14
  | rsvd18
  | rsvd1C
deriving DecidableEq, Repr

/-- R15: the byte offset of a register. -/
def regOffset : Reg → Nat
  | .cmd => 0x00
  | .status => 0x04
  | .result => 0x08
  | .ctrl => 0x0C
  | .info => 0x10
  | .rsvd14 => 0x14
  | .rsvd18 => 0x18
  | .rsvd1C => 0x1C

/-- R15: the register at a byte offset of the window; none at an offset that is not a multiple of 4. -/
def regAt (off : Nat) : Option Reg :=
  if off = 0x00 then some .cmd
  else if off = 0x04 then some .status
  else if off = 0x08 then some .result
  else if off = 0x0C then some .ctrl
  else if off = 0x10 then some .info
  else if off = 0x14 then some .rsvd14
  else if off = 0x18 then some .rsvd18
  else if off = 0x1C then some .rsvd1C
  else none

/-- The whole-word access to a register of the core at `cfg.base`. -/
def regAccess (cfg : Config) (r : Reg) : Access := ⟨cfg.base + regOffset r, 4⟩

/-- 20_memory.md R30, R37: the register an access reaches, or why it has no meaning. -/
def accessReg (cfg : Config) (acc : Access) : Except Refusal Reg :=
  if acc.addr < cfg.base ∨ cfg.base + 32 ≤ acc.addr then .error .outsideWindow
  else if acc.bytes ≠ 4 then .error .badAccess
  else
    match regAt (acc.addr - cfg.base) with
    | some r => .ok r
    | none => .error .badAccess

/-- R20: the value of INFO's MULIMPL and GEN fields. -/
def infoMulImpl (cfg : Config) : BitVec 4 :=
  match cfg.mulImpl with
  | .logTable _ _ => 0x0#4
  | .bitSerial => 0x1#4

def infoGen (cfg : Config) : Byte :=
  match cfg.mulImpl with
  | .logTable g _ => g
  | .bitSerial => 0x00#8

/-- R20: `{IFVER, MULIMPL, WIDTH, GEN, POLY}`. -/
def infoWord (cfg : Config) : Word :=
  (0x01#8) ++ infoMulImpl cfg ++ (0x8#4) ++ infoGen cfg ++ cfg.fieldPoly.extractLsb' 0 8

/-- R18: bits 7:0 are RES, the others read 0. -/
def State.resultWord (s : State) : Word := s.res.setWidth 32

/-- What a read of a register returns (R15 to R21). -/
def State.readReg (s : State) : Reg → Word
  | .cmd => 0x00000000#32
  | .status => s.statusWord
  | .result => s.resultWord
  | .ctrl => 0x00000000#32
  | .info => infoWord s.cfg
  | .rsvd14 => 0x00000000#32
  | .rsvd18 => 0x00000000#32
  | .rsvd1C => 0x00000000#32

/-- 70_reset_and_hazards.md R94 (3): INFO has WIDTH = 0x8, IFVER = 0x01 and the wanted POLY. -/
def infoFits (w : Word) (poly : Byte) : Bool :=
  w.extractLsb' 16 4 == 0x8#4 && w.extractLsb' 24 8 == 0x01#8 && w.extractLsb' 0 8 == poly

/-! ## The points of INTERP0 -/

/-- Entry number `i` of an array, as the loops count it. -/
def Memory.entry (m : Memory) (i : Nat) : Byte := m.read (BitVec.ofNat 8 i)

/-- R71: the least i in 0..k-1 with PX[i] = 0x00. -/
def leastIdZero (px : Memory) (k : Nat) : Option Nat :=
  (List.range k).find? fun i => px.entry i == 0x00#8

/-- R71: the least j in 1..k-1 with PX[j] = PX[i] for an i < j. -/
def leastDupId (px : Memory) (k : Nat) : Option Nat :=
  (List.range k).find? fun j => (List.range j).any fun i => px.entry i == px.entry j

end Sys2Proof.Machine
end

