-- ==== Sys2Proof/Machine/Ops.lean ====
section
/-! DEFINITION. The named operations over the registers and arrays: the writes of commands, the end
of a command with success or with an error (20_memory.md R36, 60_exceptions.md R80), the return from
an error (CTRL.CLR, 10_state.md R19), acceptance and refusal of a CMD write (20_memory.md R32, R33),
reset and the end of the initialisation (70_reset_and_hazards.md R91, R92). -/

namespace Sys2Proof.Machine

/-! ## The writes of commands -/

/-- `RESULT <- v`. -/
def State.setRes (s : State) (v : Byte) : State := { s with res := v }

/-- `COEF[i] <- v`. -/
def State.setCoef (s : State) (i v : Byte) : State := { s with coef := s.coef.write i v }

/-- `PX[i] <- x; PY[i] <- y`. -/
def State.setPoint (s : State) (i x y : Byte) : State :=
  { s with px := s.px.write i x, py := s.py.write i y }

/-- Every entry of COEF, PX and PY is written 0x00 (43_control.md R75, 70_reset_and_hazards.md R92). -/
def State.clearArrays (s : State) : State := { s with coef := [], px := [], py := [] }

/-! ## The end of a command -/

/-- R36, success: `DONE <- 1; BUSY <- 0; pending <- none`, after the command's effects. -/
def State.succeed (s : State) : State :=
  { s with done := true, busy := false, pending := none }

/-- R80, R36: taking an error. `ERR <- code; ERRINFO <- info; BUSY <- 0; pending <- none`, and
nothing else: DONE, RESULT and the arrays stay. -/
def State.raise (s : State) (e : ErrKind) (info : Byte) : State :=
  { s with err := errCode e, errInfo := info, busy := false, pending := none }

/-- R19, 60_exceptions.md R84: the return from an error, and from a refused write, by CTRL.CLR. -/
def State.clearErrors (s : State) : State :=
  { s with err := 0#4, errInfo := 0x00#8, ovr := false }

/-! ## The command channel -/

/-- The delay that the next command or initialisation is given, from the free supply (R100). -/
def nextDelay : List Nat → Nat
  | [] => 0
  | d :: _ => d

/-- A delay is taken from the supply. -/
def State.drawDelay (s : State) : State :=
  { s with delay := nextDelay s.delays, delays := s.delays.tail }

/-- R32: acceptance of a command word. -/
def State.accept (s : State) (w : Word) : State :=
  { s.drawDelay with pending := some w, busy := true, done := false }

/-- R33: refusal of a command word; the only effect is `OVR <- 1`. -/
def State.refuse (s : State) : State := { s with ovr := true }

/-- R32, R33: a write of CMD. -/
def State.writeCmd (s : State) (w : Word) : State := if s.accepts then s.accept w else s.refuse

/-- R19: a write of CTRL; bits 31:1 are ignored. -/
def State.writeCtrl (s : State) (w : Word) : State := if w.getLsbD 0 then s.clearErrors else s

/-- What a write of a register does (R19, R21, R34): read-only and reserved ones ignore it. -/
def State.writeReg (s : State) (r : Reg) (w : Word) : State :=
  match r with
  | .cmd => s.writeCmd w
  | .status => s
  | .result => s
  | .ctrl => s.writeCtrl w
  | .info => s
  | .rsvd14 => s
  | .rsvd18 => s
  | .rsvd1C => s

/-! ## Reset -/

/-- R91: reset is asserted. The arrays and tables are not touched here; the initialisation that now
starts has a delay of its own. -/
def State.assertReset (s : State) : State :=
  { s.drawDelay with
    pending := none, initialising := true, busy := true, done := false, ovr := false
    err := 0#4, errInfo := 0x00#8, res := 0x00#8, resetIn := true }

/-- The reset input is released. -/
def State.releaseReset (s : State) : State := { s with resetIn := false }

/-- R92: RAM tables are filled; ROM ones hold their constants already. -/
def State.buildTables (s : State) : State :=
  if tablesFixed s.cfg then s else { s with expTab := builtExp s.cfg, logTab := builtLog s.cfg }

/-- R92: the end of the initialisation. -/
def State.endInit (s : State) : State :=
  { s.clearArrays.buildTables with initialising := false, busy := false }

/-! ## The surroundings -/

/-- The core's own step is still to come: a command is pending or the initialisation runs (R23). -/
def State.working (s : State) : Bool := s.initialising || s.pending.isSome

/-- A turn goes by in which the core does not move. -/
def State.tick (s : State) : State := { s with delay := s.delay - 1 }

/-- The host keeps a word it has read under a name. -/
def State.record (s : State) (name : Nat) (w : Word) : State :=
  { s with hostLog := (name, w) :: s.hostLog }

/-- The host puts an operation in front of what it will do. -/
def State.pushOp (s : State) (op : HostOp) : State := { s with host := op :: s.host }

/-- The host has begun its next operation; `ops` are those after it. -/
def State.setHost (s : State) (ops : List HostOp) : State := { s with host := ops }

end Sys2Proof.Machine
end

