-- ==== Sys2Proof/Machine/Arith.lean ====
section
/-! DEFINITION. The meanings of GF_ADD, GF_MUL, GF_INV and GF_DIV (40_field_arithmetic.md section 2).
A meaning is the whole completion step of its command (20_memory.md R36): the body of its rule and
the STATUS update, one atomic step (R35). -/

namespace Sys2Proof.Machine

/-- R60. -/
def execGfAdd (a b : Byte) (s : State) : Host.Outcome State Fault Refusal :=
  .next (s.setRes (gfAdd a b)).succeed

/-- R61; the product is R55's whichever MUL_IMPL the core has (R56). -/
def execGfMul (a b : Byte) (s : State) : Host.Outcome State Fault Refusal :=
  .next (s.setRes (gfMul s.cfg.fieldPoly a b)).succeed

/-- R62: DIV_ZERO(0x03) for a = 0x00. -/
def execGfInv (a : Byte) (s : State) : Host.Outcome State Fault Refusal :=
  if a = 0x00#8 then .next (s.raise .divZero 0x03#8)
  else .next (s.setRes (gfInv s.cfg.fieldPoly a)).succeed

/-- R63: DIV_ZERO(0x04) for b = 0x00, whatever a is. -/
def execGfDiv (a b : Byte) (s : State) : Host.Outcome State Fault Refusal :=
  if b = 0x00#8 then .next (s.raise .divZero 0x04#8)
  else .next (s.setRes (gfDiv s.cfg.fieldPoly a b)).succeed

end Sys2Proof.Machine
end

