-- ==== Sys2Proof/Machine/Control.lean ====
section
/-! DEFINITION. NOP and ZEROIZE (43_control.md). -/

namespace Sys2Proof.Machine

/-- R74: nothing but the completion. -/
def execNop (s : State) : Host.Outcome State Fault Refusal := .next s.succeed

/-- R75: COEF, PX, PY and RESULT become 0x00. -/
def execZeroize (s : State) : Host.Outcome State Fault Refusal :=
  .next (s.clearArrays.setRes 0x00#8).succeed

end Sys2Proof.Machine
end

