-- ==== Sys2Proof/Machine/Lagrange.lean ====
section
/-! DEFINITION. PT_WR and INTERP0 (42_lagrange.md). -/

namespace Sys2Proof.Machine

/-- R70, inner loop: the product over j in 0..k-1, j ≠ i, of PX[j] / (PX[j] + PX[i]). -/
def lagrangeWeight (p : BitVec 9) (px : Memory) (k i : Nat) : Byte :=
  (List.range k).foldl
    (fun q j => if j = i then q else gfMul p q (gfDiv p (px.entry j) (gfAdd (px.entry j) (px.entry i))))
    0x01#8

/-- R70: the value at x = 0 of the polynomial through the points (PX[i], PY[i]), i in 0..k-1. -/
def gfLagrange0 (p : BitVec 9) (px py : Memory) (k : Nat) : Byte :=
  (List.range k).foldl (fun t i => gfAdd t (gfMul p (py.entry i) (lagrangeWeight p px k i))) 0x00#8

/-- R69. -/
def execPtWr (i x y : Byte) (s : State) : Host.Outcome State Fault Refusal :=
  .next (s.setPoint i x y).succeed

/-- R71: the number of points, then an id 0x00, then a repeated id (60_exceptions.md R81). -/
def execInterp0 (k : Byte) (s : State) : Host.Outcome State Fault Refusal :=
  if k.toNat < 2 then .next (s.raise .consFewpoints k)
  else
    match leastIdZero s.px k.toNat with
    | some i => .next (s.raise .consIdzero (BitVec.ofNat 8 i))
    | none =>
      match leastDupId s.px k.toNat with
      | some j => .next (s.raise .consDupid (BitVec.ofNat 8 j))
      | none => .next (s.setRes (gfLagrange0 s.cfg.fieldPoly s.px s.py k.toNat)).succeed

end Sys2Proof.Machine
end

