-- ==== Sys2Proof/Machine/Poly.lean ====
section
/-! DEFINITION. COEF_WR and POLY_EVAL (41_polynomial.md). -/

namespace Sys2Proof.Machine

/-- R65's loop over i = n-1 downto 0, the accumulator being `r`. -/
def hornerLoop (p : BitVec 9) (coef : Memory) (x : Byte) : Nat → Byte → Byte
  | 0, r => r
  | i + 1, r => hornerLoop p coef x i (gfAdd (gfMul p r x) (coef.entry i))

/-- R65: the value at x of the polynomial with coefficients COEF[0..n-1]. -/
def gfHorner (p : BitVec 9) (coef : Memory) (n : Nat) (x : Byte) : Byte := hornerLoop p coef x n 0x00#8

/-- R64. -/
def execCoefWr (i v : Byte) (s : State) : Host.Outcome State Fault Refusal :=
  .next (s.setCoef i v).succeed

/-- R66: the count is checked before x (60_exceptions.md R81). -/
def execPolyEval (x n : Byte) (s : State) : Host.Outcome State Fault Refusal :=
  if n.toNat < 2 ∨ 254 < n.toNat then .next (s.raise .cfgCount n)
  else if x = 0x00#8 then .next (s.raise .cfgXzero 0x00#8)
  else .next (s.setRes (gfHorner s.cfg.fieldPoly s.coef n.toNat x)).succeed

end Sys2Proof.Machine
end

