-- ==== Sys2Proof/Machine/Dispatch.lean ====
section
/-! DEFINITION. The dispatch of 30_encoding.md R50: one arm per command. -/

namespace Sys2Proof.Machine

def exec (i : Instr) (s : State) : Host.Outcome State Fault Refusal :=
  match i with
  | .nop => Sys2Proof.Machine.execNop s
  | .gfAdd a b => Sys2Proof.Machine.execGfAdd a b s
  | .gfMul a b => Sys2Proof.Machine.execGfMul a b s
  | .gfInv a => Sys2Proof.Machine.execGfInv a s
  | .gfDiv a b => Sys2Proof.Machine.execGfDiv a b s
  | .coefWr j v => Sys2Proof.Machine.execCoefWr j v s
  | .polyEval x n => Sys2Proof.Machine.execPolyEval x n s
  | .ptWr j x y => Sys2Proof.Machine.execPtWr j x y s
  | .interp0 k => Sys2Proof.Machine.execInterp0 k s
  | .zeroize => Sys2Proof.Machine.execZeroize s

end Sys2Proof.Machine
end

