-- ==== Sys2Proof/Machine/Turn.lean ====
section
/-! DEFINITION. One turn of the machine: the core's own step (the completion of a pending command,
20_memory.md R36, or the end of the initialisation, 70_reset_and_hazards.md R92), or one access of
the host, or one move of the reset input. All of them form one total order (20_memory.md R39). -/

namespace Sys2Proof.Machine

/-! ## The core's own step -/

/-- R36, R50: the completion of the command word `w`. An illegal word records its OP byte (R48). -/
def completeWord (w : Word) (s : State) : Host.Outcome State Fault Refusal :=
  match decode w with
  | .ok i => exec i s
  | .error _ => .next (s.raise .illegalCmd (fieldOp w))

/-- The core's own step: the end of the initialisation, else the completion. -/
def coreTurn (s : State) : Host.Outcome State Fault Refusal :=
  if s.initialising then .next s.endInit
  else
    match s.pending with
    | some w => completeWord w s
    | none => .next s

/-! ## The host's accesses -/

/-- The register an access reaches now; none while reset is asserted (R91). -/
def State.reach (s : State) (acc : Access) : Except Refusal Reg :=
  if s.resetIn then .error .accessDuringReset else accessReg s.cfg acc

/-- A bus read: no effect on the core (R34); the host goes on with the word. -/
def busRead (s : State) (acc : Access) (cont : Word → Host.Outcome State Fault Refusal) :
    Host.Outcome State Fault Refusal :=
  match s.reach acc with
  | .ok r => cont (s.readReg r)
  | .error e => .refused e

/-- A bus write (R34). -/
def busWrite (s : State) (acc : Access) (w : Word) : Host.Outcome State Fault Refusal :=
  match s.reach acc with
  | .ok r => .next (s.writeReg r w)
  | .error e => .refused e

/-- The host or the platform does `op`; `s.host` holds what comes after it. -/
def hostTurn (op : HostOp) (s : State) : Host.Outcome State Fault Refusal :=
  match op with
  | .read acc name => busRead s acc fun w => .next (s.record name w)
  | .write acc w => busWrite s acc w
  | .wait =>
    busRead s (regAccess s.cfg .status) fun w => .next (if statusBusy w then s.pushOp .wait else s)
  | .check =>
    busRead s (regAccess s.cfg .status) fun w => if checkPasses w then .next s else .fault .checkFailed
  | .rd name =>
    busRead s (regAccess s.cfg .result) fun w => .next (s.record name ((fieldC w).setWidth 32))
  | .bootClear =>
    busRead s (regAccess s.cfg .status) fun w =>
      .next (if statusOvr w then s.pushOp (.write (regAccess s.cfg .ctrl) 0x00000001#32) else s)
  | .bootInfo poly =>
    busRead s (regAccess s.cfg .info) fun w =>
      if infoFits w poly then .next s else .fault .infoMismatch
  | .assertReset => .next s.assertReset
  | .releaseReset => .next s.releaseReset

/-! ## Who moves -/

/-- The core moves when its delay has run out; else the host does its next operation while the delay
runs down; with nothing asked of the core, the turn only goes by. -/
def turn (s : State) : Host.Outcome State Fault Refusal :=
  if s.working ∧ s.delay = 0 then coreTurn s
  else
    match s.host with
    | [] => .next s.tick
    | op :: ops => hostTurn op (s.tick.setHost ops)

/-- The state in which the core is about to complete the word `w`: the initialisation is over, reset
is released, the error record is clear, and `w` has just been accepted with no delay. -/
def State.withPending (s : State) (w : Word) : State :=
  let t := if s.initialising then s.endInit else s
  { t.clearErrors.releaseReset with pending := some w, busy := true, done := false, delay := 0 }

end Sys2Proof.Machine
end

