-- ==== Sys2Proof/Machine/HostProgram.lean ====
section
/-! DEFINITION. Host programs (30_encoding.md R52): the lines a program is written in, and their
expansion into bus accesses; and the boot order of 70_reset_and_hazards.md R94. -/

namespace Sys2Proof.Machine

/-- R52: a line of a host program. A command is a line of the assembler (R51), and the two loads carry
integers, since what they expand into are such lines. -/
inductive HostLine where
  | issue (w : Word)
  | command (l : AsmLine)
  | wait
  | check
  | rd (name : Nat)
  | rdstat (name : Nat)
  | clr
  | coefLoad (cs : List Nat)
  | ptLoad (points : List (Nat × Nat))
deriving DecidableEq, Repr

/-- `issue w`: `BusWrite(0x00, w)`. -/
def issueOp (cfg : Config) (w : Word) : HostOp := .write (regAccess cfg .cmd) w

/-- A command line: `issue` of its word, then `wait`; none where the line is an assembler error (R51). -/
def commandOps (cfg : Config) (l : AsmLine) : Option (List HostOp) :=
  l.assemble.map fun w => [issueOp cfg w, .wait]

/-- The accesses of several lines one after the other; none if a line is an assembler error. -/
def joinOps : List (Option (List HostOp)) → Option (List HostOp)
  | [] => some []
  | some ops :: rest => (joinOps rest).map (ops ++ ·)
  | none :: _ => none

/-- `coef.wr k, c0; coef.wr k+1, c1; …`. -/
def coefLoadLines : Nat → List Nat → List AsmLine
  | _, [] => []
  | k, c :: cs => ⟨"coef.wr", [k, c]⟩ :: coefLoadLines (k + 1) cs

/-- `pt.wr k, x0, y0; pt.wr k+1, x1, y1; …`. -/
def ptLoadLines : Nat → List (Nat × Nat) → List AsmLine
  | _, [] => []
  | k, (x, y) :: ps => ⟨"pt.wr", [k, x, y]⟩ :: ptLoadLines (k + 1) ps

/-- R52: the expansion of a line; none where it holds an assembler error, among them a load of more
entries than an array has, whose next index is out of 0..255 (R51). -/
def HostLine.expand (cfg : Config) : HostLine → Option (List HostOp)
  | .issue w => some [issueOp cfg w]
  | .command l => commandOps cfg l
  | .wait => some [.wait]
  | .check => some [.check]
  | .rd name => some [.rd name]
  | .rdstat name => some [.read (regAccess cfg .status) name]
  | .clr => some [.write (regAccess cfg .ctrl) 0x00000001#32]
  | .coefLoad cs => joinOps ((coefLoadLines 0 cs).map (commandOps cfg))
  | .ptLoad points => joinOps ((ptLoadLines 0 points).map (commandOps cfg))

/-- A host program as what the host will do; none if it does not assemble. -/
def hostProgram (cfg : Config) (lines : List HostLine) : Option (List HostOp) :=
  joinOps (lines.map (HostLine.expand cfg))

/-- R94: the boot order: `wait`, then clear OVR if it is set, then check INFO. -/
def bootOps (poly : Byte) : List HostOp := [.wait, .bootClear, .bootInfo poly]

/-- The host takes up a program after what it is doing now. -/
def State.giveProgram (s : State) (ops : List HostOp) : State := { s with host := s.host ++ ops }

end Sys2Proof.Machine
end

