-- ==== Sys2Proof/Safety.lean ====
section
/-! DEFINITION. The terms in which claims are made: the invariant of the machine, readiness of a
command, and the mathematics that the field functions are held against (products of polynomials over
GF(2), sums of powers, interpolation points). -/

namespace Sys2Proof.Machine

/-! ## The invariant -/

/-- The five invariants of STATUS that 10_state.md R17 names. -/
structure State.StatusRules (s : State) : Prop where
  /-- R17 (a). -/
  done_noErr : s.done = true → s.err = 0#4
  /-- R17 (b). -/
  noErr_noInfo : s.err = 0#4 → s.errInfo = 0x00#8
  /-- R17 (c). -/
  err_range : s.err.toNat ≤ 7
  /-- R17 (d). -/
  busy_noErr : s.busy = true → s.err = 0#4
  /-- R17 (e). -/
  busy_notDone : s.busy = true → s.done = false

/-- R23: BUSY is set exactly when a command is pending or the initialisation runs, never both. -/
structure State.ChannelRules (s : State) : Prop where
  busy_iff : s.busy = s.working
  notBoth : s.initialising = true → s.pending = none

/-- Every array and table is in canonical form. -/
structure State.MemoriesWf (s : State) : Prop where
  coef_wf : s.coef.wf = true
  px_wf : s.px.wf = true
  py_wf : s.py.wf = true
  exp_wf : s.expTab.wf = true
  log_wf : s.logTab.wf = true

/-- R25, R92: the tables hold their constants, RAM ones once an initialisation has ended. -/
def State.TablesBuilt (s : State) : Prop :=
  (s.initialising = false ∨ tablesFixed s.cfg = true) →
    s.expTab = builtExp s.cfg ∧ s.logTab = builtLog s.cfg

/-- The invariant of the machine. -/
structure State.Inv (s : State) : Prop where
  status : s.StatusRules
  channel : s.ChannelRules
  memories : s.MemoriesWf
  tables : s.TablesBuilt

/-! ## Runs -/

/-- The next step of the core is the completion of the command word `w`. -/
structure State.Ready (s : State) (w : Word) : Prop where
  pending : s.pending = some w
  started : s.initialising = false
  due : s.delay = 0

/-- The host's next operation is `op`, and it is the host's turn. -/
structure State.HostNext (s : State) (op : HostOp) (ops : List HostOp) : Prop where
  host : s.host = op :: ops
  turn : s.working = false ∨ 0 < s.delay

/-- `k` steps (Host.Core.run), with the state's type in view. -/
def runSteps (k : Nat) (s : State) : Host.Outcome State Fault Refusal := Host.Core.run core k s

/-- The operation cannot stop the host's program while the reset input is released, and does not
assert it: a whole-word access of the window, or an operation that has no condition to fail. -/
def HostOp.goesOn (cfg : Config) : HostOp → Bool
  | .read acc _ => (accessReg cfg acc).isOk
  | .write acc _ => (accessReg cfg acc).isOk
  | .wait => true
  | .check => false
  | .rd _ => true
  | .bootClear => true
  | .bootInfo _ => false
  | .assertReset => false
  | .releaseReset => true

/-- Nothing the host will do can stop its program: it does nothing more, or the reset input is
released and each of its operations goes on. -/
def State.HostGoesOn (s : State) : Prop :=
  s.host = [] ∨ (s.resetIn = false ∧ ∀ op ∈ s.host, op.goesOn s.cfg = true)

/-! ## Which commands write what -/

/-- 10_state.md R18: the commands that produce a result. -/
def writesResult : Instr → Bool
  | .gfAdd _ _ => true
  | .gfMul _ _ => true
  | .gfInv _ => true
  | .gfDiv _ _ => true
  | .polyEval _ _ => true
  | .interp0 _ => true
  | .nop => false
  | .coefWr _ _ => false
  | .ptWr _ _ _ => false
  | .zeroize => false

/-- 10_state.md R22: COEF entry `j` is one the command stores to. -/
def storesCoef : Instr → Byte → Bool
  | .coefWr i _, j => i == j
  | .zeroize, _ => true
  | .nop, _ => false
  | .gfAdd _ _, _ => false
  | .gfMul _ _, _ => false
  | .gfInv _, _ => false
  | .gfDiv _ _, _ => false
  | .polyEval _ _, _ => false
  | .ptWr _ _ _, _ => false
  | .interp0 _, _ => false

/-- 10_state.md R22: PX and PY entry `j` are ones the command stores to. -/
def storesPoint : Instr → Byte → Bool
  | .ptWr i _ _, j => i == j
  | .zeroize, _ => true
  | .nop, _ => false
  | .gfAdd _ _, _ => false
  | .gfMul _ _, _ => false
  | .gfInv _, _ => false
  | .gfDiv _ _, _ => false
  | .polyEval _ _, _ => false
  | .coefWr _ _, _ => false
  | .interp0 _, _ => false

/-! ## Polynomials over GF(2) -/

/-- The product of two polynomials of degree below 8 over GF(2), without reduction: the exclusive OR
of `a` shifted by i over the set bits i of `b` (00_scope.md R11). -/
def polyProduct (a : BitVec 16) (b : Byte) : BitVec 16 :=
  (List.range 8).foldl (fun acc i => if b.getLsbD i then acc ^^^ (a <<< i) else acc) 0#16

/-- `r` is the remainder of the product of `a` and `b` on division by P(x): it has degree below 8,
and the product is P(x) times some quotient plus `r` (40_field_arithmetic.md R55). -/
def IsProductMod (p : BitVec 9) (a b r : Byte) : Prop :=
  ∃ q : Byte, polyProduct (a.setWidth 16) b = polyProduct (p.setWidth 16) q ^^^ r.setWidth 16

/-- P(x) is irreducible over GF(2): it is no product of two polynomials of degree 1 to 7. -/
def IsIrreducible (p : BitVec 9) : Prop :=
  ∀ f g : Byte, 2 ≤ f.toNat → 2 ≤ g.toNat → polyProduct (f.setWidth 16) g ≠ p.setWidth 16

/-- The sum of COEF[i]·x^i over i in 0..n-1 (41_polynomial.md R65). -/
def polyValue (p : BitVec 9) (coef : Memory) (x : Byte) : Nat → Byte
  | 0 => 0x00#8
  | n + 1 => gfAdd (polyValue p coef x n) (gfMul p (coef.entry n) (gfPow p x n))

/-- The product over j in 0..k-1, j ≠ i, of x_j / (x_j + x_i) (42_lagrange.md R70), by recursion on k. -/
def basisAtZero (p : BitVec 9) (px : Memory) (i : Nat) : Nat → Byte
  | 0 => 0x01#8
  | j + 1 =>
    if j = i then basisAtZero p px i j
    else gfMul p (basisAtZero p px i j) (gfDiv p (px.entry j) (gfAdd (px.entry j) (px.entry i)))

/-- The sum over i in 0..m-1 of y_i times its product over 0..k-1 (42_lagrange.md R70). -/
def interpolationSum (p : BitVec 9) (px py : Memory) (k : Nat) : Nat → Byte
  | 0 => 0x00#8
  | i + 1 => gfAdd (interpolationSum p px py k i) (gfMul p (py.entry i) (basisAtZero p px i k))

/-- The ids PX[0..k-1] are usable: at least two, none zero, no two equal (42_lagrange.md R70, R71). -/
structure GoodPoints (px : Memory) (k : Nat) : Prop where
  atLeastTwo : 2 ≤ k
  fits : k ≤ 255
  nonzero : ∀ i, i < k → px.entry i ≠ 0x00#8
  distinct : ∀ i j, i < j → j < k → px.entry i ≠ px.entry j

end Sys2Proof.Machine
end

