-- ==== Sys2Proof/Certificates/Slice0/Obligations.lean ====
section
/-! DEFINITION. The statements about the model, for the provers. Every state `s` carries the
parameters of its core (`s.cfg`, legal by construction), so a statement for all states is one for all
legal values of FIELD_POLY, MUL_IMPL, GEN and BASE, and for every placement of completions between
host accesses (`s.delay`, `s.delays`). -/

open Sys2Proof Sys2Proof.Machine

/-! ## Encoding (30_encoding.md) -/

/-- Decoding the word, and the byte lanes, of a well-formed command gives the command back, every
operand at every value. -/
def Obligations.DecodeOfEncodeIsTheCommand : Prop :=
  ∀ i : Instr, i.wf = true →
    decode (encode i) = .ok i ∧ decodeBytes (wordLanes (encode i)) = .ok i ∧ fieldOp (encode i) = i.opcode

/-- A legal word is the encoding of the command it decodes to: each command has one word. -/
def Obligations.EncodeOfDecodeIsTheWord : Prop :=
  ∀ (w : Word) (i : Instr), decode w = .ok i → encode i = w

/-- R46: the row a word selects, by mask and match, and the operand fields, give its command; no word
selects two rows. -/
def Obligations.OpcodeMapGivesEachCommand : Prop :=
  ∀ w : Word,
    (decode w = .ok .nop ↔ w &&& 0xFFFFFFFF#32 = 0x00000000#32) ∧
    (∀ a b, decode w = .ok (.gfAdd a b) ↔
      w &&& 0xFF0000FF#32 = 0x01000000#32 ∧ a = w.extractLsb' 16 8 ∧ b = w.extractLsb' 8 8) ∧
    (∀ a b, decode w = .ok (.gfMul a b) ↔
      w &&& 0xFF0000FF#32 = 0x02000000#32 ∧ a = w.extractLsb' 16 8 ∧ b = w.extractLsb' 8 8) ∧
    (∀ a, decode w = .ok (.gfInv a) ↔ w &&& 0xFF00FFFF#32 = 0x03000000#32 ∧ a = w.extractLsb' 16 8) ∧
    (∀ a b, decode w = .ok (.gfDiv a b) ↔
      w &&& 0xFF0000FF#32 = 0x04000000#32 ∧ a = w.extractLsb' 16 8 ∧ b = w.extractLsb' 8 8) ∧
    (∀ i v, decode w = .ok (.coefWr i v) ↔
      w &&& 0xFF0000FF#32 = 0x10000000#32 ∧ i = w.extractLsb' 16 8 ∧ v = w.extractLsb' 8 8) ∧
    (∀ x n, decode w = .ok (.polyEval x n) ↔
      w &&& 0xFF0000FF#32 = 0x11000000#32 ∧ x = w.extractLsb' 16 8 ∧ n = w.extractLsb' 8 8) ∧
    (∀ i x y, decode w = .ok (.ptWr i x y) ↔
      w &&& 0xFF000000#32 = 0x20000000#32 ∧ i = w.extractLsb' 16 8 ∧ x = w.extractLsb' 8 8 ∧
        y = w.extractLsb' 0 8) ∧
    (∀ k, decode w = .ok (.interp0 k) ↔ w &&& 0xFF00FFFF#32 = 0x21000000#32 ∧ k = w.extractLsb' 16 8) ∧
    (decode w = .ok .zeroize ↔ w &&& 0xFFFFFFFF#32 = 0x30000000#32) ∧
    (∀ r ∈ opcodeRows, ∀ r' ∈ opcodeRows, r.selects w = true → r'.selects w = true → r = r')

/-- R48: a word that matches no row is accepted like any other and fails at its completion with
ILLEGAL_CMD and its OP byte; the words that match no row are those the decoder rejects, among them
every word whose OP is none of the ten and every word of a defined OP with a bit set in an unused
field. -/
def Obligations.IllegalWordsFailWithTheirOpcode : Prop :=
  ∀ w : Word,
    ((∃ e, decode w = .error e) ↔ ∀ r ∈ opcodeRows, r.selects w = false) ∧
    (w.extractLsb' 24 8 ∉
      [0x00#8, 0x01#8, 0x02#8, 0x03#8, 0x04#8, 0x10#8, 0x11#8, 0x20#8, 0x21#8, 0x30#8] →
      ∃ e, decode w = .error e) ∧
    (∀ r ∈ opcodeRows, w.extractLsb' 24 8 = r.pattern.extractLsb' 24 8 →
      w &&& r.mask ≠ r.pattern → ∃ e, decode w = .error e) ∧
    ((∃ e, decode w = .error e) → ∀ s : State,
      (s.accepts = true → s.writeCmd w = s.accept w) ∧
      (s.Ready w → step s = .next
        { s with err := 1#4, errInfo := w.extractLsb' 24 8, busy := false, pending := none }))

/-- Words written out from the spec's own decode table (95_test_vectors.md section 2.1). -/
def Obligations.SampleWordsDecodeAsTheSpecLists : Prop :=
  decode 0x00000000#32 = .ok .nop ∧
  decode 0x0153CA00#32 = .ok (.gfAdd 0x53#8 0xCA#8) ∧
  decode 0x03530000#32 = .ok (.gfInv 0x53#8) ∧
  decode 0x11020200#32 = .ok (.polyEval 0x02#8 0x02#8) ∧
  decode 0x20000163#32 = .ok (.ptWr 0x00#8 0x01#8 0x63#8) ∧
  decode 0x21020000#32 = .ok (.interp0 0x02#8) ∧
  decode 0x30000000#32 = .ok .zeroize ∧
  decode 0x21020001#32 = .error (.unusedFieldNonZero 0x21#8) ∧
  decode 0x05000000#32 = .error (.undefinedOpcode 0x05#8)

/-- R51: the line of a command assembles to the command's word, and a line is an assembler error
exactly when it is not well formed (unknown mnemonic, wrong number of operands, operand out of
0..255). -/
def Obligations.AssemblerLinesGiveTheirWords : Prop :=
  (∀ i : Instr, i.asm.assemble = some (encode i)) ∧
  (∀ l : AsmLine, l.assemble = none ↔ l.wf = false)

/-! ## The command channel (20_memory.md) -/

/-- R50: when the pending word is due, the step runs the command of the row that the word selects,
with the word's operands; a word that selects no row records ILLEGAL_CMD and its OP byte. The word is
that of the command channel, there is no program counter to move. -/
def Obligations.StepRunsTheDecodedCommand : Prop :=
  ∀ (s : State) (w : Word), s.Ready w →
    ((∃ i, decode w = .ok i) ∨ ∃ e, decode w = .error e) ∧
    (∀ i, decode w = .ok i → step s = exec i s ∧ encode i = w ∧
      ∃ r ∈ opcodeRows, r.selects w = true ∧ r.mnemonic = i.mnemonic) ∧
    (∀ e, decode w = .error e → (∀ r ∈ opcodeRows, r.selects w = false) ∧ step s = .next
      { s with err := 1#4, errInfo := w.extractLsb' 24 8, busy := false, pending := none })

/-- R32, R33: a CMD write is accepted when BUSY, ERR and OVR are all clear, and else refused with OVR
as its only effect; `delay` and `delays` are the model's free delays. -/
def Obligations.CmdWriteIsAcceptedOrRefused : Prop :=
  ∀ (s : State) (w : Word) (ops : List HostOp),
    s.HostNext (.write (regAccess s.cfg .cmd) w) ops → s.resetIn = false →
    (s.busy = false ∧ s.err = 0#4 ∧ s.ovr = false → step s = .next
      { s with
        pending := some w, busy := true, done := false, host := ops
        delay := nextDelay s.delays, delays := s.delays.tail }) ∧
    (s.busy = true ∨ s.err ≠ 0#4 ∨ s.ovr = true → step s = .next
      { s with ovr := true, host := ops, delay := s.delay - 1 })

/-- R36: an accepted command that no reset abandons is completed after its delay, whatever the host
does meanwhile, unless the host's own program stops first (a failed `check`, a bad access); a host
that has nothing more to do, or only operations that cannot stop, does not stop first. The completion
clears BUSY and `pending` and either sets DONE, with no error, or records an error and writes neither
RESULT nor an array. -/
def Obligations.PendingCommandCompletes : Prop :=
  ∀ (s : State) (w : Word), s.Inv → s.pending = some w → HostOp.assertReset ∉ s.host →
    (s.HostGoesOn → ∃ u, runSteps s.delay s = .next u) ∧
    ∀ u, runSteps s.delay s = .next u → u.Ready w ∧ ∃ t, step u = .next t ∧
      t.busy = false ∧ t.pending = none ∧
      ((∃ i, decode w = .ok i ∧ exec i u = .next t ∧ t.done = true ∧ t.err = 0#4) ∨
       (t.done = false ∧ t.err ≠ 0#4 ∧
        t = { u with err := t.err, errInfo := t.errInfo, busy := false, pending := none }))

/-- R52, last sentence: a `wait` terminates, within two turns more than the delay that is running. -/
def Obligations.WaitTerminates : Prop :=
  ∀ (s : State) (ops : List HostOp), s.Inv → s.resetIn = false → s.host = .wait :: ops →
    ∃ k, k ≤ s.delay + 2 ∧ ∃ t, runSteps k s = .next t ∧ t.host = ops ∧ t.busy = false

/-- R34: a read changes nothing of the core and two reads in a row return the same word; a write of a
read-only or reserved register changes nothing. -/
def Obligations.ReadsHaveNoSideEffect : Prop :=
  ∀ (s : State) (r : Reg) (ops : List HostOp), s.resetIn = false →
    (∀ name, s.HostNext (.read (regAccess s.cfg r) name) ops → step s = .next
      { s with host := ops, delay := s.delay - 1, hostLog := (name, s.readReg r) :: s.hostLog }) ∧
    (∀ name name', s.host = .read (regAccess s.cfg r) name :: .read (regAccess s.cfg r) name' :: ops →
      s.working = false ∨ 1 < s.delay → ∃ t, runSteps 2 s = .next t ∧
        t.hostLog = (name', s.readReg r) :: (name, s.readReg r) :: s.hostLog) ∧
    (∀ w, s.HostNext (.write (regAccess s.cfg r) w) ops → r ≠ .cmd → r ≠ .ctrl → step s = .next
      { s with host := ops, delay := s.delay - 1 }) ∧
    (∀ w, s.HostNext (.write (regAccess s.cfg .ctrl) w) ops → step s = .next
      (if w.getLsbD 0 then
        { s with host := ops, delay := s.delay - 1, err := 0#4, errInfo := 0x00#8, ovr := false }
      else { s with host := ops, delay := s.delay - 1 }))

/-- R30: an access of another width or alignment is refused and changes nothing; every aligned 32-bit
access inside the window reaches the one register at its offset. -/
def Obligations.OnlyAlignedWordAccessesReachARegister : Prop :=
  ∀ (s : State) (acc : Access), s.cfg.base ≤ acc.addr → acc.addr < s.cfg.base + 32 →
    s.resetIn = false →
    (acc.bytes ≠ 4 ∨ (acc.addr - s.cfg.base) % 4 ≠ 0 →
      (∀ name ops, s.HostNext (.read acc name) ops → step s = .refused .badAccess) ∧
      (∀ w ops, s.HostNext (.write acc w) ops → step s = .refused .badAccess)) ∧
    (acc.bytes = 4 → (acc.addr - s.cfg.base) % 4 = 0 →
      ∃ r, s.reach acc = .ok r ∧ acc = regAccess s.cfg r)

/-- R96: the host that writes a command and reads RESULT without waiting gets the new value on one
placement of the completion and the old one on another; and of two CMD writes in a row the second is
accepted on one and refused on another. Here the command is any GF_MUL. -/
def Obligations.ResultReadMayComeBeforeOrAfterCompletion : Prop :=
  ∀ (s : State) (a b : Byte) (name : Nat) (w' : Word) (ops : List HostOp) (ds : List Nat),
    s.Inv → s.accepts = true → s.resetIn = false →
    (s.host = issueOp s.cfg (encode (.gfMul a b)) :: .rd name :: ops →
      (∃ t, runSteps 3 { s with delays := 0 :: ds } = .next t ∧ t.host = ops ∧
        t.hostLog = (name, (gfMul s.cfg.fieldPoly a b).setWidth 32) :: s.hostLog) ∧
      (∃ t, runSteps 2 { s with delays := 1 :: ds } = .next t ∧ t.host = ops ∧
        t.hostLog = (name, s.res.setWidth 32) :: s.hostLog)) ∧
    (s.host = issueOp s.cfg (encode (.gfMul a b)) :: issueOp s.cfg w' :: ops →
      (∃ t, runSteps 3 { s with delays := 0 :: ds } = .next t ∧ t.pending = some w' ∧ t.ovr = false) ∧
      (∃ t, runSteps 2 { s with delays := 1 :: ds } = .next t ∧
        t.pending = some (encode (.gfMul a b)) ∧ t.ovr = true))

/-! ## Registers of the window (10_state.md) -/

/-- R15, R16: STATUS lies at offset 0x04; the layout of its word; bits 3 and 31:16 read 0. -/
def Obligations.StatusWordHoldsTheFields : Prop :=
  ∀ s : State,
    accessReg s.cfg ⟨s.cfg.base + 0x04, 4⟩ = .ok .status ∧ s.readReg .status = s.statusWord ∧
    s.statusWord.getLsbD 0 = s.busy ∧ s.statusWord.getLsbD 1 = s.done ∧ s.statusWord.getLsbD 2 = s.ovr ∧
    s.statusWord.getLsbD 3 = false ∧ s.statusWord.extractLsb' 4 4 = s.err ∧
    s.statusWord.extractLsb' 8 8 = s.errInfo ∧ s.statusWord.extractLsb' 16 16 = 0#16

/-- R20, R21: INFO, at offset 0x10, is the constant of the parameters; the reserved offsets read 0. With FIELD_POLY =
0x11D, GEN = 0x02 and LOG_TABLE, INFO reads 0x0108021D. -/
def Obligations.InfoAndReservedOffsetsRead : Prop :=
  ∀ s : State,
    accessReg s.cfg ⟨s.cfg.base + 0x10, 4⟩ = .ok .info ∧
    (s.readReg .info).extractLsb' 0 8 = s.cfg.fieldPoly.extractLsb' 0 8 ∧
    (∀ g st, s.cfg.mulImpl = .logTable g st →
      (s.readReg .info).extractLsb' 8 8 = g ∧ (s.readReg .info).extractLsb' 20 4 = 0x0#4) ∧
    (s.cfg.mulImpl = .bitSerial →
      (s.readReg .info).extractLsb' 8 8 = 0x00#8 ∧ (s.readReg .info).extractLsb' 20 4 = 0x1#4) ∧
    (s.readReg .info).extractLsb' 16 4 = 0x8#4 ∧ (s.readReg .info).extractLsb' 24 8 = 0x01#8 ∧
    (∀ st, s.cfg.fieldPoly = 0x11D#9 → s.cfg.mulImpl = .logTable 0x02#8 st →
      s.readReg .info = 0x0108021D#32) ∧
    (∀ off, off = 0x14 ∨ off = 0x18 ∨ off = 0x1C →
      ∃ r, accessReg s.cfg ⟨s.cfg.base + off, 4⟩ = .ok r ∧ s.readReg r = 0x00000000#32 ∧
        ∀ w, s.writeReg r w = s)

/-- R19: CMD and CTRL read 0; a CTRL word with bit 0 set clears ERR, ERRINFO and OVR and nothing
else, one with bit 0 clear does nothing. -/
def Obligations.CtrlClearsTheErrorRecord : Prop :=
  ∀ (s : State) (w : Word),
    accessReg s.cfg ⟨s.cfg.base + 0x00, 4⟩ = .ok .cmd ∧ accessReg s.cfg ⟨s.cfg.base + 0x0C, 4⟩ = .ok .ctrl ∧
    s.readReg .cmd = 0x00000000#32 ∧ s.readReg .ctrl = 0x00000000#32 ∧
    (s.accepts = true → s.writeReg .cmd w = s.accept w) ∧ (s.accepts = false → s.writeReg .cmd w = s.refuse) ∧
    (w.getLsbD 0 = true → s.writeReg .ctrl w = { s with err := 0#4, errInfo := 0x00#8, ovr := false }) ∧
    (w.getLsbD 0 = false → s.writeReg .ctrl w = s)

/-- R18: RESULT lies at offset 0x08 and its bits 31:8 read 0; RES changes only at the successful completion of one of the six
commands that produce a result, at ZEROIZE, which sets it to 0x00, and when reset is asserted, which
sets it to 0x00. -/
def Obligations.ResultChangesOnlyByItsCommands : Prop :=
  (∀ s : State, accessReg s.cfg ⟨s.cfg.base + 0x08, 4⟩ = .ok .result ∧
    (s.readReg .result).extractLsb' 0 8 = s.res ∧ (s.readReg .result).extractLsb' 8 24 = 0#24) ∧
  (∀ cfg, (State.resetWith cfg).res = 0x00#8) ∧
  (∀ s : State, s.assertReset.res = 0x00#8 ∧ ∃ t, exec .zeroize s = .next t ∧ t.res = 0x00#8) ∧
  (∀ s t : State, step s = .next t → t.res ≠ s.res →
    (∃ w i, s.Ready w ∧ decode w = .ok i ∧ writesResult i = true ∧ t.done = true) ∨
    (∃ w, s.Ready w ∧ decode w = .ok .zeroize ∧ t.done = true ∧ t.res = 0x00#8) ∨
    (∃ ops, s.host = .assertReset :: ops ∧ t.res = 0x00#8))

/-! ## Reset (70_reset_and_hazards.md) -/

/-- R91: what asserting reset sets, from every state, the contents of the arrays and tables being left
open; no read tells what the arrays hold and no CMD write is accepted until the initialisation has
ended; every host operation that accesses the window while reset is asserted is refused. -/
def Obligations.ResetAssertionSetsTheCore : Prop :=
  ∀ (s : State) (ops : List HostOp),
    (s.HostNext .assertReset ops → ∃ t c x y e l, step s = .next t ∧
      t = { s with
        coef := c, px := x, py := y, expTab := e, logTab := l
        pending := none, initialising := true, busy := true, done := false, ovr := false
        err := 0#4, errInfo := 0x00#8, res := 0x00#8, resetIn := true
        host := ops, delay := nextDelay s.delays, delays := s.delays.tail } ∧
      t.statusWord = 0x00000001#32) ∧
    (∀ (c x y : Memory) (r : Reg), ({ s with coef := c, px := x, py := y } : State).readReg r = s.readReg r) ∧
    (s.Inv → s.initialising = true → s.accepts = false) ∧
    (s.resetIn = true → ∀ op, op ≠ .assertReset → op ≠ .releaseReset → s.HostNext op ops →
      step s = .refused .accessDuringReset)

/-- R92: every initialisation that no reset restarts ends after its delay once the reset input is
released, unless the host's own program stops first, which a host with nothing more to do, or with
operations only that cannot stop, does not; its end clears every array entry, leaves the tables
holding R25's constants, and changes nothing else; until then STATUS reads 0x00000001, or 0x00000005
after a refused write, and INFO its constant. -/
def Obligations.InitialisationEndsWithClearArrays : Prop :=
  ∀ s : State, s.Inv → s.initialising = true →
    s.statusWord = (if s.ovr then 0x00000005#32 else 0x00000001#32) ∧
    s.readReg .info = infoWord s.cfg ∧
    (∀ w, s.writeReg .cmd w = { s with ovr := true }) ∧
    (∀ w, w.getLsbD 0 = true → s.writeReg .ctrl w = { s with err := 0#4, errInfo := 0x00#8, ovr := false }) ∧
    (s.resetIn = false → HostOp.assertReset ∉ s.host →
      (s.HostGoesOn → ∃ u, runSteps s.delay s = .next u) ∧
      ∀ u, runSteps s.delay s = .next u → u.initialising = true ∧ u.delay = 0 ∧ u.resetIn = false) ∧
    (s.resetIn = false → s.delay = 0 → ∃ c x y, step s = .next
        { s with
          coef := c, px := x, py := y, expTab := builtExp s.cfg, logTab := builtLog s.cfg
          initialising := false, busy := false } ∧
      ∀ i : Byte, c.read i = 0x00#8 ∧ x.read i = 0x00#8 ∧ y.read i = 0x00#8)

/-- R93: every piece of state after reset and initialisation, for every legal set of parameters, after
power-on (`State.resetWith`) and after any later assertion of reset (R91); `o` tells whether a CMD
write was refused during the initialisation, and `c`, `x`, `y` are what the arrays hold before its
end, which R91 leaves open. -/
def Obligations.ResetValuesAfterInitialisation : Prop :=
  ∀ (r : State) (o : Bool) (c x y : Memory),
    (∃ cfg, r = State.resetWith cfg) ∨ (∃ s : State, s.Inv ∧ r = s.assertReset) →
    r.busy = true ∧
    ∃ t, step { r with ovr := o, coef := c, px := x, py := y, resetIn := false, delay := 0 } = .next t ∧
    t.statusWord = (if o then 0x00000004#32 else 0x00000000#32) ∧ t.readReg .result = 0x00000000#32 ∧
    (∀ i : Byte, t.coef.read i = 0x00#8 ∧ t.px.read i = 0x00#8 ∧ t.py.read i = 0x00#8) ∧
    t.pending = none ∧ t.initialising = false ∧ t.readReg .info = infoWord r.cfg ∧
    (∀ g st, r.cfg.mulImpl = .logTable g st → ∀ i : Byte, i.toNat < 255 →
      t.expTab.read i = gfPow r.cfg.fieldPoly g i.toNat ∧
      t.logTab.read (gfPow r.cfg.fieldPoly g i.toNat) = i) ∧
    t.readReg .rsvd14 = 0x00000000#32 ∧ t.readReg .rsvd18 = 0x00000000#32 ∧ t.readReg .rsvd1C = 0x00000000#32

/-! ## Invariants -/

/-- The invariant holds right after reset, for every legal set of parameters. -/
def Obligations.ResetMeetsTheInvariant : Prop := ∀ cfg : Config, (State.resetWith cfg).Inv

/-- Every step keeps the invariant: the rules of STATUS (R17) and of the command channel (R23), the
canonical form of the arrays and tables, and the tables' contents (R25). -/
def Obligations.StepKeepsTheInvariant : Prop := ∀ s t : State, s.Inv → step s = .next t → t.Inv

/-- R17, R23: every state reachable from reset, whatever the host and the platform do and wherever
the completions fall, meets (a) to (e) and has BUSY exactly while working. -/
def Obligations.ReachableStatesMeetTheStatusRules : Prop :=
  (∀ cfg, (State.resetWith cfg).pending = none ∧ (State.resetWith cfg).initialising = true) ∧
  ∀ (cfg : Config) (ops : List HostOp) (d : Nat) (ds : List Nat) (k : Nat) (t : State),
    runSteps k { State.resetWith cfg with host := ops, delay := d, delays := ds } = .next t →
    (t.done = true → t.err = 0#4) ∧ (t.err = 0#4 → t.errInfo = 0x00#8) ∧ t.err.toNat ≤ 7 ∧
    (t.busy = true → t.err = 0#4) ∧ (t.busy = true → t.done = false) ∧
    (t.busy = true ↔ t.pending ≠ none ∨ t.initialising = true) ∧
    ¬ (t.pending ≠ none ∧ t.initialising = true)

/-- R8: no step changes FIELD_POLY or GEN, whose low 8 bits INFO shows. -/
def Obligations.ParametersNeverChange : Prop :=
  ∀ s t : State, step s = .next t → t.cfg = s.cfg ∧
    (t.readReg .info).extractLsb' 0 8 = s.cfg.fieldPoly.extractLsb' 0 8 ∧
    (∀ g st, s.cfg.mulImpl = .logTable g st → (t.readReg .info).extractLsb' 8 8 = g)

/-- R25: the tables are written by the end of the initialisation only: a step that changes one is that
end. For RAM tables, that a repeated assertion of reset leaves them is the model's choice (log entry
6). -/
def Obligations.TablesAreNeverWrittenAfterwards : Prop :=
  ∀ s t : State, step s = .next t → t.expTab ≠ s.expTab ∨ t.logTab ≠ s.logTab →
    s.initialising = true ∧ s.delay = 0 ∧ t.initialising = false

/-- R22: COEF is written by COEF_WR and ZEROIZE, PX and PY by PT_WR and ZEROIZE, and all three by the
end of the initialisation (R92); no host access and no other command changes an entry. What the
assertion of reset does to the arrays is open (R91) and left out here. -/
def Obligations.ArraysAreWrittenOnlyByTheirCommands : Prop :=
  ∀ (s t : State) (j : Byte), step s = .next t → (∀ ops, ¬ s.HostNext .assertReset ops) →
    (t.coef.read j ≠ s.coef.read j →
      (s.initialising = true ∧ s.delay = 0) ∨ ∃ w i, s.Ready w ∧ decode w = .ok i ∧ storesCoef i j = true) ∧
    (t.px.read j ≠ s.px.read j ∨ t.py.read j ≠ s.py.read j →
      (s.initialising = true ∧ s.delay = 0) ∨ ∃ w i, s.Ready w ∧ decode w = .ok i ∧ storesPoint i j = true)

/-- R22, no read-back path: two runs that differ only in the arrays go on differing only in the
arrays through every host access and every move of the reset input; what the host has read is the
same in both. All but the assertion of reset leave the arrays as they are. -/
def Obligations.HostAccessesLearnNothingOfTheArrays : Prop :=
  ∀ (s : State) (c x y : Memory) (op : HostOp) (ops : List HostOp), s.HostNext op ops →
    (∀ t, step s = .next t → ∃ c' x' y',
      step { s with coef := c, px := x, py := y } = .next { t with coef := c', px := x', py := y' } ∧
      (op ≠ .assertReset → c' = c ∧ x' = x ∧ y' = y ∧ t.coef = s.coef ∧ t.px = s.px ∧ t.py = s.py)) ∧
    (∀ f, step s = .fault f → step { s with coef := c, px := x, py := y } = .fault f) ∧
    (∀ e, step s = .refused e → step { s with coef := c, px := x, py := y } = .refused e)

/-- R28: after ZEROIZE, and after reset and initialisation, nothing is left of what COEF, PX, PY,
RESULT and (for reset) the pending command word held: two states that differ only in these become
equal. -/
def Obligations.ZeroizeAndResetLeaveNoSecret : Prop :=
  ∀ (s s' : State),
    s' = { s with coef := s'.coef, px := s'.px, py := s'.py, res := s'.res, pending := s'.pending } →
    exec .zeroize s' = exec .zeroize s ∧ s'.assertReset.endInit = s.assertReset.endInit ∧
    s.assertReset.endInit.pending = none ∧ s.assertReset.endInit.res = 0x00#8 ∧
    (∀ j : Byte, s.assertReset.endInit.coef.read j = 0x00#8 ∧ s.assertReset.endInit.px.read j = 0x00#8 ∧
      s.assertReset.endInit.py.read j = 0x00#8) ∧
    ∃ t, exec .zeroize s = .next t ∧ t.pending = none ∧ t.res = 0x00#8 ∧
      ∀ j : Byte, t.coef.read j = 0x00#8 ∧ t.px.read j = 0x00#8 ∧ t.py.read j = 0x00#8

/-! ## Errors (60_exceptions.md) -/

/-- R77: which command records which error with which value (and which of several causes is the one
recorded); codes 8 to 15 are never produced. -/
def Obligations.EachErrorHasItsCauseAndInfo : Prop :=
  ∀ (i : Instr) (s t : State), s.err = 0#4 → exec i s = .next t →
    (t.err = 0#4 ∨ t.err = 2#4 ∨ t.err = 3#4 ∨ t.err = 4#4 ∨ t.err = 5#4 ∨ t.err = 6#4 ∨ t.err = 7#4) ∧
    (s.errInfo = 0x00#8 → t.err = 0#4 → t.errInfo = 0x00#8) ∧
    (t.err = 2#4 ↔ ∃ x n, i = .polyEval x n ∧ (n.toNat < 2 ∨ 254 < n.toNat)) ∧
    (t.err = 3#4 ↔ ∃ n, i = .polyEval 0x00#8 n ∧ 2 ≤ n.toNat ∧ n.toNat ≤ 254) ∧
    (t.err = 4#4 ↔ i = .gfInv 0x00#8 ∨ ∃ a, i = .gfDiv a 0x00#8) ∧
    (t.err = 5#4 ↔ ∃ k, i = .interp0 k ∧ k.toNat < 2) ∧
    (t.err = 6#4 ↔ ∃ k, i = .interp0 k ∧ 2 ≤ k.toNat ∧ ∃ m, m < k.toNat ∧ s.px.entry m = 0x00#8) ∧
    (t.err = 7#4 ↔ ∃ k, i = .interp0 k ∧ 2 ≤ k.toNat ∧ (∀ m, m < k.toNat → s.px.entry m ≠ 0x00#8) ∧
      ∃ l m, l < m ∧ m < k.toNat ∧ s.px.entry l = s.px.entry m) ∧
    (∀ x n, i = .polyEval x n → t.err = 2#4 → t.errInfo = n) ∧
    (t.err = 3#4 → t.errInfo = 0x00#8) ∧
    (∀ a, i = .gfInv a → t.err = 4#4 → t.errInfo = 0x03#8) ∧
    (∀ a b, i = .gfDiv a b → t.err = 4#4 → t.errInfo = 0x04#8) ∧
    (∀ k, i = .interp0 k → t.err = 5#4 → t.errInfo = k) ∧
    (t.err = 6#4 → s.px.entry t.errInfo.toNat = 0x00#8 ∧
      ∀ m, m < t.errInfo.toNat → s.px.entry m ≠ 0x00#8) ∧
    (t.err = 7#4 → (∃ l, l < t.errInfo.toNat ∧ s.px.entry l = s.px.entry t.errInfo.toNat) ∧
      ∀ l m, l < m → m < t.errInfo.toNat → s.px.entry l ≠ s.px.entry m) ∧
    (∀ w e, decode w = .error e → completeWord w s = .next
      { s with err := 1#4, errInfo := w.extractLsb' 24 8, busy := false, pending := none })

/-- R80: a failed command (DONE was 0 and is not set) has no effect but the error record; while ERR
is not 0, it and ERRINFO stay through every step but a CTRL.CLR write and a reset, and every CMD
write is refused. -/
def Obligations.ErrorsRecordAndStick : Prop :=
  (∀ (i : Instr) (s t : State), s.done = false → exec i s = .next t → t.done = false →
    t.err ≠ 0#4 ∧ t = { s with err := t.err, errInfo := t.errInfo, busy := false, pending := none }) ∧
  (∀ s t : State, s.Inv → s.err ≠ 0#4 → step s = .next t →
    (t.err = s.err ∧ t.errInfo = s.errInfo) ∨
    (∃ w ops, s.host = .write (regAccess s.cfg .ctrl) w :: ops ∧ w.getLsbD 0 = true ∧ t.err = 0#4) ∨
    (∃ ops, s.host = .assertReset :: ops)) ∧
  (∀ (s : State) (w : Word), s.err ≠ 0#4 → s.writeReg .cmd w = { s with ovr := true })

/-- R84: the return from an error is the CTRL.CLR write: it clears ERR, ERRINFO and OVR and restores
acceptance; refused writes meanwhile set OVR and leave ERR. -/
def Obligations.CtrlClearRestoresAcceptance : Prop :=
  ∀ (s : State), s.Inv → s.err ≠ 0#4 →
    (∀ w, (s.writeReg .cmd w).err = s.err ∧ (s.writeReg .cmd w).ovr = true ∧
      (s.writeReg .cmd w).pending = s.pending) ∧
    (s.writeReg .ctrl 0x00000001#32).err = 0#4 ∧ (s.writeReg .ctrl 0x00000001#32).errInfo = 0x00#8 ∧
    (s.writeReg .ctrl 0x00000001#32).ovr = false ∧ (s.writeReg .ctrl 0x00000001#32).accepts = true ∧
    ∀ w, ((s.writeReg .ctrl 0x00000001#32).writeReg .cmd w).pending = some w

/-- 30_encoding.md R52 and 70_reset_and_hazards.md R94: when `check` and the boot's third step stop a
host program and when they let it go on; `wait` polls again while BUSY = 1; `rd` takes RES; the boot's
second step writes CTRL.CLR next exactly when OVR = 1. While reset is asserted each is refused
(`Obligations.ResetAssertionSetsTheCore`). -/
def Obligations.HostChecksStopTheProgram : Prop :=
  ∀ (s : State) (ops : List HostOp), s.resetIn = false →
    (s.HostNext .check ops →
      (s.done = true ∧ s.ovr = false ∧ s.err = 0#4 → step s = .next { s with host := ops, delay := s.delay - 1 }) ∧
      (s.done = false ∨ s.ovr = true ∨ s.err ≠ 0#4 → step s = .fault .checkFailed)) ∧
    (∀ poly, s.HostNext (.bootInfo poly) ops →
      (poly = s.cfg.fieldPoly.extractLsb' 0 8 → step s = .next { s with host := ops, delay := s.delay - 1 }) ∧
      (poly ≠ s.cfg.fieldPoly.extractLsb' 0 8 → step s = .fault .infoMismatch)) ∧
    (s.HostNext .wait ops → step s = .next
      { s with host := if s.busy then .wait :: ops else ops, delay := s.delay - 1 }) ∧
    (∀ name, s.HostNext (.rd name) ops → step s = .next
      { s with host := ops, delay := s.delay - 1, hostLog := (name, s.res.setWidth 32) :: s.hostLog }) ∧
    (s.HostNext .bootClear ops → step s = .next
      { s with
        host := if s.ovr then .write ⟨s.cfg.base + 0x0C, 4⟩ 0x00000001#32 :: ops else ops
        delay := s.delay - 1 })

/-! ## Commands: results, completion, frame -/

/-- What every command leaves unchanged: the parameters, OVR, the tables, the channel's other state,
the surroundings; RES unless the command produces a result or is ZEROIZE; every array entry that the
command does not store to. -/
def Obligations.CommandsKeepEverythingElse : Prop :=
  ∀ (i : Instr) (s t : State), exec i s = .next t →
    t.cfg = s.cfg ∧ t.ovr = s.ovr ∧ t.expTab = s.expTab ∧ t.logTab = s.logTab ∧
    t.initialising = s.initialising ∧ t.resetIn = s.resetIn ∧ t.delay = s.delay ∧ t.delays = s.delays ∧
    t.host = s.host ∧ t.hostLog = s.hostLog ∧
    (writesResult i = false → i ≠ .zeroize → t.res = s.res) ∧
    (∀ j : Byte, storesCoef i j = false → t.coef.read j = s.coef.read j) ∧
    (∀ j : Byte, storesPoint i j = false → t.px.read j = s.px.read j ∧ t.py.read j = s.py.read j)

/-- R60 GF_ADD: it completes with the exclusive OR of its operands in RES and nothing else changed; a
word with a non-zero C field records ILLEGAL_CMD with 0x01. -/
def Obligations.GfAddGivesTheXor : Prop :=
  ∀ (a b : Byte) (s : State),
    decode (Word.mk 0x01#8 a b 0x00#8) = .ok (.gfAdd a b) ∧
    (∀ c, c ≠ 0x00#8 → s.Ready (Word.mk 0x01#8 a b c) → step s = .next
      { s with err := 1#4, errInfo := 0x01#8, busy := false, pending := none }) ∧
    (∃ r, exec (.gfAdd a b) s = .next { s with res := r, done := true, busy := false, pending := none } ∧
      (∀ n, r.getLsbD n = (a.getLsbD n ^^ b.getLsbD n)) ∧
      (a = b → r = 0x00#8) ∧ (b = 0x00#8 → r = a) ∧ (a = 0x53#8 → b = 0xCA#8 → r = 0x99#8)) ∧
    Word.mk 0x01#8 0x53#8 0xCA#8 0x00#8 = 0x0153CA00#32

/-- R61 GF_MUL: the result is the remainder of the product of the operands, as polynomials, on
division by FIELD_POLY, whichever MUL_IMPL the core has. -/
def Obligations.GfMulGivesTheProduct : Prop :=
  ∀ (a b : Byte) (s : State),
    decode (Word.mk 0x02#8 a b 0x00#8) = .ok (.gfMul a b) ∧
    (∀ c, c ≠ 0x00#8 → s.Ready (Word.mk 0x02#8 a b c) → step s = .next
      { s with err := 1#4, errInfo := 0x02#8, busy := false, pending := none }) ∧
    (∃ r, exec (.gfMul a b) s = .next { s with res := r, done := true, busy := false, pending := none } ∧
      IsProductMod s.cfg.fieldPoly a b r ∧
      (a = 0x00#8 ∨ b = 0x00#8 → r = 0x00#8) ∧ (a = 0x01#8 → r = b) ∧
      (a = 0x02#8 → b = 0x80#8 → r = s.cfg.fieldPoly.extractLsb' 0 8) ∧
      (a = 0x53#8 → b = 0xCA#8 → s.cfg.fieldPoly = 0x11D#9 → r = 0x8F#8) ∧
      (a = 0x53#8 → b = 0xCA#8 → s.cfg.fieldPoly = 0x11B#9 → r = 0x01#8)) ∧
    Word.mk 0x02#8 0x53#8 0xCA#8 0x00#8 = 0x0253CA00#32

/-- R62 GF_INV: for a non-zero operand the result is the one byte whose product with it is 0x01; 0x00
records DIV_ZERO with 0x03. -/
def Obligations.GfInvGivesTheInverse : Prop :=
  ∀ (a : Byte) (s : State),
    decode (Word.mk 0x03#8 a 0x00#8 0x00#8) = .ok (.gfInv a) ∧
    (∀ b c, b ≠ 0x00#8 ∨ c ≠ 0x00#8 → s.Ready (Word.mk 0x03#8 a b c) → step s = .next
      { s with err := 1#4, errInfo := 0x03#8, busy := false, pending := none }) ∧
    (a ≠ 0x00#8 →
      ∃ r, exec (.gfInv a) s = .next { s with res := r, done := true, busy := false, pending := none } ∧
        gfMul s.cfg.fieldPoly a r = 0x01#8 ∧ (∀ r', gfMul s.cfg.fieldPoly a r' = 0x01#8 → r' = r) ∧
        (a = 0x01#8 → r = 0x01#8) ∧ (a = 0x53#8 → s.cfg.fieldPoly = 0x11D#9 → r = 0x8C#8)) ∧
    (a = 0x00#8 → exec (.gfInv a) s = .next
      { s with err := 4#4, errInfo := 0x03#8, busy := false, pending := none }) ∧
    Word.mk 0x03#8 0x53#8 0x00#8 0x00#8 = 0x03530000#32

/-- R63 GF_DIV: for a non-zero divisor the result is the one byte whose product with the divisor is
the dividend; a divisor 0x00 records DIV_ZERO with 0x04, whatever the dividend. -/
def Obligations.GfDivGivesTheQuotient : Prop :=
  ∀ (a b : Byte) (s : State),
    decode (Word.mk 0x04#8 a b 0x00#8) = .ok (.gfDiv a b) ∧
    (∀ c, c ≠ 0x00#8 → s.Ready (Word.mk 0x04#8 a b c) → step s = .next
      { s with err := 1#4, errInfo := 0x04#8, busy := false, pending := none }) ∧
    (b ≠ 0x00#8 →
      ∃ r, exec (.gfDiv a b) s = .next { s with res := r, done := true, busy := false, pending := none } ∧
        r = gfMul s.cfg.fieldPoly a (gfInv s.cfg.fieldPoly b) ∧
        gfMul s.cfg.fieldPoly r b = a ∧ (∀ r', gfMul s.cfg.fieldPoly r' b = a → r' = r) ∧
        (a = 0x00#8 → r = 0x00#8) ∧ (b = 0x01#8 → r = a) ∧ (a = b → r = 0x01#8) ∧
        (a = 0x53#8 → b = 0xCA#8 → s.cfg.fieldPoly = 0x11D#9 → r = 0x6D#8)) ∧
    (b = 0x00#8 → exec (.gfDiv a b) s = .next
      { s with err := 4#4, errInfo := 0x04#8, busy := false, pending := none }) ∧
    Word.mk 0x04#8 0x53#8 0xCA#8 0x00#8 = 0x0453CA00#32

/-- R64 COEF_WR: entry `i` reads the value written, every other entry reads as before; entries 254
and 255 are writable but no POLY_EVAL reads them. -/
def Obligations.CoefWrWritesOneCoefficient : Prop :=
  ∀ (i v : Byte) (s : State),
    decode (Word.mk 0x10#8 i v 0x00#8) = .ok (.coefWr i v) ∧
    (∀ c, c ≠ 0x00#8 → s.Ready (Word.mk 0x10#8 i v c) → step s = .next
      { s with err := 1#4, errInfo := 0x10#8, busy := false, pending := none }) ∧
    (∃ m, exec (.coefWr i v) s = .next { s with coef := m, done := true, busy := false, pending := none } ∧
      m.read i = v ∧ (∀ j, j ≠ i → m.read j = s.coef.read j)) ∧
    (254 ≤ i.toNat → ∀ x n, ∃ t t', exec (.polyEval x n) s = .next t ∧
      exec (.polyEval x n) { s with coef := s.coef.write i v } = .next t' ∧
      t'.res = t.res ∧ t'.err = t.err ∧ t'.errInfo = t.errInfo ∧ t'.done = t.done) ∧
    Word.mk 0x10#8 0x00#8 0x48#8 0x00#8 = 0x10004800#32

/-- R65: the Horner loop computes the polynomial's value: the sum of COEF[i]·x^i, i in 0..n-1. -/
def Obligations.HornerComputesThePolynomial : Prop :=
  ∀ p ∈ Config.legalPolys, ∀ (coef : Memory) (n : Nat) (x : Byte),
    gfHorner p coef n x = polyValue p coef x n

/-- R66 POLY_EVAL: with 2 to 254 coefficients and a non-zero x the result is the polynomial's value;
else CFG_COUNT with n, or, the count being legal, CFG_XZERO. -/
def Obligations.PolyEvalGivesTheShare : Prop :=
  ∀ (x n : Byte) (s : State),
    decode (Word.mk 0x11#8 x n 0x00#8) = .ok (.polyEval x n) ∧
    (∀ c, c ≠ 0x00#8 → s.Ready (Word.mk 0x11#8 x n c) → step s = .next
      { s with err := 1#4, errInfo := 0x11#8, busy := false, pending := none }) ∧
    (n.toNat < 2 ∨ 254 < n.toNat → exec (.polyEval x n) s = .next
      { s with err := 2#4, errInfo := n, busy := false, pending := none }) ∧
    (2 ≤ n.toNat → n.toNat ≤ 254 → x = 0x00#8 → exec (.polyEval x n) s = .next
      { s with err := 3#4, errInfo := 0x00#8, busy := false, pending := none }) ∧
    (2 ≤ n.toNat → n.toNat ≤ 254 → x ≠ 0x00#8 →
      ∃ r, exec (.polyEval x n) s = .next { s with res := r, done := true, busy := false, pending := none } ∧
        r = polyValue s.cfg.fieldPoly s.coef x n.toNat ∧
        (x = 0x01#8 → r = (List.range n.toNat).foldl (fun acc i => acc ^^^ s.coef.entry i) 0x00#8) ∧
        (x = 0x02#8 → n = 0x02#8 → s.coef.entry 0 = 0x48#8 → s.coef.entry 1 = 0x2B#8 → r = 0x1E#8)) ∧
    Word.mk 0x11#8 0x02#8 0x02#8 0x00#8 = 0x11020200#32

/-- R67: POLY_EVAL depends on x, n and COEF[0..n-1] alone: not on the other entries, not on MUL_IMPL;
with two coefficients it is COEF[0] + COEF[1]·x. -/
def Obligations.PolyEvalDependsOnItsCoefficientsOnly : Prop :=
  ∀ (x n : Byte) (s s' : State), s.cfg.fieldPoly = s'.cfg.fieldPoly →
    (∀ i, i < n.toNat → s.coef.entry i = s'.coef.entry i) → 2 ≤ n.toNat → n.toNat ≤ 254 → x ≠ 0x00#8 →
    ∃ t t', exec (.polyEval x n) s = .next t ∧ exec (.polyEval x n) s' = .next t' ∧ t.res = t'.res ∧
      (n = 0x02#8 → t.res = gfAdd (s.coef.entry 0) (gfMul s.cfg.fieldPoly (s.coef.entry 1) x))

/-- R69 PT_WR: entries `i` of PX and PY read the point written, every other entry reads as before;
every word with OP = 0x20 is legal; entry 255 is writable but no INTERP0 reads it. -/
def Obligations.PtWrWritesOnePoint : Prop :=
  ∀ (i x y : Byte) (s : State),
    decode (Word.mk 0x20#8 i x y) = .ok (.ptWr i x y) ∧
    (∃ mx my, exec (.ptWr i x y) s = .next
        { s with px := mx, py := my, done := true, busy := false, pending := none } ∧
      mx.read i = x ∧ my.read i = y ∧
      (∀ j, j ≠ i → mx.read j = s.px.read j ∧ my.read j = s.py.read j)) ∧
    (i = 0xFF#8 → ∀ k, ∃ t t', exec (.interp0 k) s = .next t ∧
      exec (.interp0 k) { s with px := s.px.write i x, py := s.py.write i y } = .next t' ∧
      t'.res = t.res ∧ t'.err = t.err ∧ t'.errInfo = t.errInfo ∧ t'.done = t.done) ∧
    Word.mk 0x20#8 0x00#8 0x01#8 0x63#8 = 0x20000163#32

/-- R71 INTERP0: with at least two points, no id 0x00 and no id twice, the result is the sum of R70;
else the error of the first check that fails, with the count or the least offending index. -/
def Obligations.Interp0GivesTheInterpolatedByte : Prop :=
  ∀ (k : Byte) (s : State),
    decode (Word.mk 0x21#8 k 0x00#8 0x00#8) = .ok (.interp0 k) ∧
    (∀ b c, b ≠ 0x00#8 ∨ c ≠ 0x00#8 → s.Ready (Word.mk 0x21#8 k b c) → step s = .next
      { s with err := 1#4, errInfo := 0x21#8, busy := false, pending := none }) ∧
    (k.toNat < 2 → exec (.interp0 k) s = .next
      { s with err := 5#4, errInfo := k, busy := false, pending := none }) ∧
    (2 ≤ k.toNat → ∀ m : Byte, m.toNat < k.toNat → s.px.entry m.toNat = 0x00#8 →
      (∀ l, l < m.toNat → s.px.entry l ≠ 0x00#8) → exec (.interp0 k) s = .next
        { s with err := 6#4, errInfo := m, busy := false, pending := none }) ∧
    (2 ≤ k.toNat → (∀ l, l < k.toNat → s.px.entry l ≠ 0x00#8) → ∀ m : Byte, m.toNat < k.toNat →
      (∃ l, l < m.toNat ∧ s.px.entry l = s.px.entry m.toNat) →
      (∀ l l', l < l' → l' < m.toNat → s.px.entry l ≠ s.px.entry l') → exec (.interp0 k) s = .next
        { s with err := 7#4, errInfo := m, busy := false, pending := none }) ∧
    (GoodPoints s.px k.toNat → exec (.interp0 k) s = .next
      { s with
        res := interpolationSum s.cfg.fieldPoly s.px s.py k.toNat k.toNat
        done := true, busy := false, pending := none }) ∧
    (k = 0x02#8 → s.cfg.fieldPoly = 0x11D#9 → s.px.entry 0 = 0x01#8 → s.py.entry 0 = 0x63#8 →
      s.px.entry 1 = 0x03#8 → s.py.entry 1 = 0x35#8 → exec (.interp0 k) s = .next
        { s with res := 0x48#8, done := true, busy := false, pending := none }) ∧
    Word.mk 0x21#8 0x02#8 0x00#8 0x00#8 = 0x21020000#32

/-- R74 NOP: nothing but the completion; from STATUS = 0x00000000 it ends with 0x00000002. -/
def Obligations.NopOnlyCompletes : Prop :=
  ∀ s : State,
    decode 0x00000000#32 = .ok .nop ∧
    (∀ a b c, a ≠ 0x00#8 ∨ b ≠ 0x00#8 ∨ c ≠ 0x00#8 → s.Ready (Word.mk 0x00#8 a b c) → step s = .next
      { s with err := 1#4, errInfo := 0x00#8, busy := false, pending := none }) ∧
    exec .nop s = .next { s with done := true, busy := false, pending := none } ∧
    (s.statusWord = 0x00000000#32 → ∀ t, exec .nop (s.accept 0x00000000#32) = .next t →
      t.statusWord = 0x00000002#32)

/-- R75 ZEROIZE: every entry of COEF, PX and PY and RESULT read 0, the error record and OVR are not
touched; afterwards INTERP0 of two or more points records CONS_IDZERO(0) and POLY_EVAL gives 0x00. -/
def Obligations.ZeroizeClearsTheSecrets : Prop :=
  ∀ s : State,
    decode 0x30000000#32 = .ok .zeroize ∧
    (∀ a b c, a ≠ 0x00#8 ∨ b ≠ 0x00#8 ∨ c ≠ 0x00#8 → s.Ready (Word.mk 0x30#8 a b c) → step s = .next
      { s with err := 1#4, errInfo := 0x30#8, busy := false, pending := none }) ∧
    ∃ c x y t, exec .zeroize s = .next t ∧
      t = { s with coef := c, px := x, py := y, res := 0x00#8, done := true, busy := false, pending := none } ∧
      (∀ j : Byte, c.read j = 0x00#8 ∧ x.read j = 0x00#8 ∧ y.read j = 0x00#8) ∧
      (∀ k : Byte, 2 ≤ k.toNat → exec (.interp0 k) t = .next
        { t with err := 6#4, errInfo := 0x00#8, busy := false, pending := none }) ∧
      (∀ x n : Byte, 2 ≤ n.toNat → n.toNat ≤ 254 → x ≠ 0x00#8 → exec (.polyEval x n) t = .next
        { t with res := 0x00#8, done := true, busy := false, pending := none })

/-! ## The field (40_field_arithmetic.md) -/

/-- R54, R55: for every P(x) of degree 8 the loop computes the product of the two polynomials reduced
modulo P(x), the only byte that is such a remainder; `xtime`, the shift with the reduction of R54, is the product with
the element x. -/
def Obligations.GfMulIsThePolynomialProduct : Prop :=
  ∀ (p : BitVec 9) (a b : Byte), p.getLsbD 8 = true →
    IsProductMod p a b (gfMul p a b) ∧ (∀ r, IsProductMod p a b r → r = gfMul p a b) ∧
    xtime p a = gfMul p a 0x02#8 ∧
    xtime p a = (a <<< 1) ^^^ (if a.getLsbD 7 then p.extractLsb' 0 8 else 0x00#8)

/-- R7: the legal values are exactly the irreducible ones, and x is a primitive element for exactly
the sixteen that R7 lists. -/
def Obligations.LegalPolynomialsAreTheIrreducibleOnes : Prop :=
  (∀ p : BitVec 9, p.getLsbD 8 = true → (p ∈ Config.legalPolys ↔ IsIrreducible p)) ∧
  (∀ p ∈ Config.legalPolys, isPrimitive p 0x02#8 = true ↔
    p ∈ [0x11D#9, 0x12B#9, 0x12D#9, 0x14D#9, 0x15F#9, 0x163#9, 0x165#9, 0x169#9] ++
        [0x171#9, 0x187#9, 0x18D#9, 0x1A9#9, 0x1C3#9, 0x1CF#9, 0x1E7#9, 0x1F5#9])

/-- R59: the laws of the field, for every legal FIELD_POLY. -/
def Obligations.FieldLawsHold : Prop :=
  ∀ p ∈ Config.legalPolys, ∀ a b c : Byte,
    gfAdd a a = 0x00#8 ∧ gfAdd a 0x00#8 = a ∧ gfAdd a b = gfAdd b a ∧
    gfAdd (gfAdd a b) c = gfAdd a (gfAdd b c) ∧
    gfMul p a 0x01#8 = a ∧ gfMul p a 0x00#8 = 0x00#8 ∧ gfMul p a b = gfMul p b a ∧
    gfMul p (gfMul p a b) c = gfMul p a (gfMul p b c) ∧
    gfMul p a (gfAdd b c) = gfAdd (gfMul p a b) (gfMul p a c) ∧
    (gfMul p a b = 0x00#8 ↔ a = 0x00#8 ∨ b = 0x00#8) ∧
    (a ≠ 0x00#8 → gfInv p a ≠ 0x00#8 ∧ gfInv p (gfInv p a) = a) ∧ gfInv p 0x01#8 = 0x01#8 ∧
    (b ≠ 0x00#8 → (gfDiv p a b = 0x00#8 ↔ a = 0x00#8) ∧ gfDiv p a 0x01#8 = a ∧ gfDiv p b b = 0x01#8 ∧
      gfMul p (gfDiv p a b) b = a) ∧
    (a.toNat < 0x80 → gfMul p 0x02#8 a = a <<< 1) ∧ gfMul p 0x02#8 0x80#8 = p.extractLsb' 0 8

/-- R57: for a non-zero operand `gfInv` is the one byte whose product with it is 0x01, and the power
a^254; the tables of a LOG_TABLE core give the same byte, and none for 0x00; the commands that would
need an inverse of 0x00 record DIV_ZERO. -/
def Obligations.InverseHasItsThreeForms : Prop :=
  (∀ p ∈ Config.legalPolys, ∀ a : Byte, a ≠ 0x00#8 →
    gfMul p a (gfInv p a) = 0x01#8 ∧ (∀ b, gfMul p a b = 0x01#8 → b = gfInv p a) ∧
    gfInv p a = gfPow p a 254) ∧
  (∀ (s : State) (g : Byte) (st : TableStore), s.Inv → s.initialising = false →
    s.cfg.mulImpl = .logTable g st → ∀ a : Byte,
    tableInv s.expTab s.logTab a = if a = 0x00#8 then none else some (gfInv s.cfg.fieldPoly a)) ∧
  (∀ (s : State) (a : Byte),
    exec (.gfInv 0x00#8) s = .next { s with err := 4#4, errInfo := 0x03#8, busy := false, pending := none } ∧
    exec (.gfDiv a 0x00#8) s = .next { s with err := 4#4, errInfo := 0x04#8, busy := false, pending := none })

/-- R56: in every state of a LOG_TABLE core whose initialisation has ended, the product by the tables
is the product by the bit-serial loop; and no command's effect depends on MUL_IMPL. -/
def Obligations.TableProductIsTheSerialProduct : Prop :=
  (∀ (s : State) (g : Byte) (st : TableStore), s.Inv → s.initialising = false →
    s.cfg.mulImpl = .logTable g st →
    ∀ a b : Byte, tableMul s.expTab s.logTab a b = gfMul s.cfg.fieldPoly a b) ∧
  (∀ (i : Instr) (s t : State) (cfg : Config), cfg.fieldPoly = s.cfg.fieldPoly → exec i s = .next t →
    exec i { s with cfg := cfg } = .next { t with cfg := cfg })

/-! ## Interpolation (42_lagrange.md) -/

/-- R72 (a): shares made by POLY_EVAL from one coefficient array, at k distinct non-zero ids with k at
least the number n of coefficients, give back COEF[0], the secret byte, by INTERP0. -/
def Obligations.SharesRecoverTheSecret : Prop :=
  ∀ (split combine : State) (n k : Byte), split.cfg.fieldPoly = combine.cfg.fieldPoly →
    2 ≤ n.toNat → n.toNat ≤ 254 → n.toNat ≤ k.toNat → GoodPoints combine.px k.toNat →
    (∀ i, i < k.toNat → ∃ u, exec (.polyEval (combine.px.entry i) n) split = .next u ∧
      u.done = true ∧ combine.py.entry i = u.res) →
    exec (.interp0 k) combine = .next
      { combine with res := split.coef.entry 0, done := true, busy := false, pending := none }

/-- R72 (b): with k usable points, k less than the number n of coefficients, INTERP0 raises no error;
its value can differ from COEF[0]: there are three coefficients and two points of their polynomial
that give another. -/
def Obligations.TooFewSharesRaiseNoErrorAndCanGiveAWrongByte : Prop :=
  (∀ (split combine : State) (n k : Byte), k.toNat < n.toNat → n.toNat ≤ 254 → GoodPoints combine.px k.toNat →
    (∀ i, i < k.toNat → ∃ u, exec (.polyEval (combine.px.entry i) n) split = .next u ∧
      u.done = true ∧ combine.py.entry i = u.res) →
    ∃ r, exec (.interp0 k) combine = .next { combine with res := r, done := true, busy := false, pending := none }) ∧
  ∃ (split combine : State), split.cfg = combine.cfg ∧ combine.Inv ∧ GoodPoints combine.px 2 ∧
    (∀ i, i < 2 → ∃ u, exec (.polyEval (combine.px.entry i) 0x03#8) split = .next u ∧
      u.done = true ∧ combine.py.entry i = u.res) ∧
    ∃ t, exec (.interp0 0x02#8) combine = .next t ∧ t.done = true ∧ t.err = 0#4 ∧
      t.res ≠ split.coef.entry 0

/-- R72 (c): permuting the points among the entries does not change the result. -/
def Obligations.InterpolationIgnoresTheOrderOfPoints : Prop :=
  ∀ (s s' : State) (k : Byte), s.cfg.fieldPoly = s'.cfg.fieldPoly → GoodPoints s.px k.toNat →
    ((List.range k.toNat).map fun i => (s.px.entry i, s.py.entry i)).Perm
      ((List.range k.toNat).map fun i => (s'.px.entry i, s'.py.entry i)) →
    ∃ t t', exec (.interp0 k) s = .next t ∧ exec (.interp0 k) s' = .next t' ∧
      t.done = true ∧ t'.done = true ∧ t.res = t'.res

/-- R72 (d), (e): points that all have the same y give that y; two points give the formula of (e). -/
def Obligations.ConstantAndTwoPointInterpolation : Prop :=
  ∀ (s : State) (k : Byte), GoodPoints s.px k.toNat →
    (∀ c, (∀ i, i < k.toNat → s.py.entry i = c) → exec (.interp0 k) s = .next
      { s with res := c, done := true, busy := false, pending := none }) ∧
    (k = 0x02#8 → ∀ d, d = gfAdd (s.px.entry 0) (s.px.entry 1) → exec (.interp0 k) s = .next
      { s with
        res := gfAdd (gfMul s.cfg.fieldPoly (s.py.entry 0) (gfDiv s.cfg.fieldPoly (s.px.entry 1) d))
          (gfMul s.cfg.fieldPoly (s.py.entry 1) (gfDiv s.cfg.fieldPoly (s.px.entry 0) d))
        done := true, busy := false, pending := none })

/-! ## Placing a command (log entry 11) -/

/-- The model's own placing of a command: from every state that meets the invariant it gives one that
meets it and whose next step completes that word. -/
def Obligations.PlacedWordIsCompletedNext : Prop :=
  ∀ (s : State) (nbits w : Nat), s.Inv →
    (s.withFetchWord nbits w).Inv ∧ (s.withFetchWord nbits w).Ready (tableWord nbits w)

/-! ## Host programs, and the model's choices at reset -/

/-- R52: the expansion of each line of a host program into bus accesses. A command line that is an
assembler error (R51) expands into none, and so does a load that holds one: an operand out of 0..255,
or more entries than the 256 that an index can name. -/
def Obligations.HostLinesExpandIntoAccesses : Prop :=
  ∀ cfg : Config,
    (∀ w, (HostLine.issue w).expand cfg = some [.write ⟨cfg.base + 0x00, 4⟩ w]) ∧
    (∀ i : Instr, (HostLine.command i.asm).expand cfg = some [.write ⟨cfg.base + 0x00, 4⟩ (encode i), .wait]) ∧
    (∀ l : AsmLine, (HostLine.command l).expand cfg = none ↔ l.wf = false) ∧
    HostLine.wait.expand cfg = some [.wait] ∧ HostLine.check.expand cfg = some [.check] ∧
    (∀ name, (HostLine.rd name).expand cfg = some [.rd name]) ∧
    (∀ name, (HostLine.rdstat name).expand cfg = some [.read ⟨cfg.base + 0x04, 4⟩ name]) ∧
    HostLine.clr.expand cfg = some [.write ⟨cfg.base + 0x0C, 4⟩ 0x00000001#32] ∧
    (∀ cs : List Byte, cs.length ≤ 256 → (HostLine.coefLoad (cs.map BitVec.toNat)).expand cfg =
      some (cs.zipIdx.flatMap fun e =>
        [.write ⟨cfg.base + 0x00, 4⟩ (Word.mk 0x10#8 (BitVec.ofNat 8 e.2) e.1 0x00#8), .wait])) ∧
    (∀ ps : List (Byte × Byte), ps.length ≤ 256 →
      (HostLine.ptLoad (ps.map fun e => (e.1.toNat, e.2.toNat))).expand cfg =
        some (ps.zipIdx.flatMap fun e =>
          [.write ⟨cfg.base + 0x00, 4⟩ (Word.mk 0x20#8 (BitVec.ofNat 8 e.2) e.1.1 e.1.2), .wait])) ∧
    (∀ cs, (HostLine.coefLoad cs).expand cfg = none ↔ 256 < cs.length ∨ ∃ c ∈ cs, 256 ≤ c) ∧
    (∀ ps, (HostLine.ptLoad ps).expand cfg = none ↔ 256 < ps.length ∨ ∃ e ∈ ps, 256 ≤ e.1 ∨ 256 ≤ e.2)

/-- The model's own choices where R91 and R92 are silent (log entries 5, 6 and 7): the assertion of
reset leaves the arrays and tables as they were, a repeated one starts the initialisation again with a
new delay, and the initialisation may end while reset is still asserted. -/
def Obligations.ModelsChoicesAtReset : Prop :=
  (∀ (s : State) (ops : List HostOp), s.HostNext .assertReset ops → ∃ t, step s = .next t ∧
    t.coef = s.coef ∧ t.px = s.px ∧ t.py = s.py ∧ t.expTab = s.expTab ∧ t.logTab = s.logTab ∧
    t.initialising = true ∧ t.delay = nextDelay s.delays) ∧
  (∀ s : State, s.initialising = true → s.delay = 0 → s.resetIn = true → ∃ t, step s = .next t ∧
    t.initialising = false ∧ t.busy = false ∧ t.resetIn = true ∧
    ∀ i : Byte, t.coef.read i = 0x00#8 ∧ t.px.read i = 0x00#8 ∧ t.py.read i = 0x00#8)
end

