-- ==== Sys2Proof/Laws/Encoding.lean ====
section
/-! SUPPORT. The fields of an assembled word, the lanes of a word, and well-formedness of commands. -/

namespace Sys2Proof

@[simp] theorem fieldOp_mk (op a b c : Byte) : fieldOp (Word.mk op a b c) = op := by
  apply BitVec.eq_of_getLsbD_eq
  intro i hi
  simp only [fieldOp, Word.mk, BitVec.getLsbD_extractLsb', BitVec.getLsbD_append]
  simp [hi, show ¬ 24 + i < 8 by omega, show ¬ 24 + i - 8 < 8 by omega, show ¬ 24 + i - 8 - 8 < 8 by omega,
    show 24 + i - 8 - 8 - 8 = i by omega]

@[simp] theorem fieldA_mk (op a b c : Byte) : fieldA (Word.mk op a b c) = a := by
  apply BitVec.eq_of_getLsbD_eq
  intro i hi
  simp only [fieldA, Word.mk, BitVec.getLsbD_extractLsb', BitVec.getLsbD_append]
  simp [hi, show ¬ 16 + i < 8 by omega, show ¬ 16 + i - 8 < 8 by omega, show 16 + i - 8 - 8 = i by omega]

@[simp] theorem fieldB_mk (op a b c : Byte) : fieldB (Word.mk op a b c) = b := by
  apply BitVec.eq_of_getLsbD_eq
  intro i hi
  simp only [fieldB, Word.mk, BitVec.getLsbD_extractLsb', BitVec.getLsbD_append]
  simp [hi, show ¬ 8 + i < 8 by omega, show 8 + i - 8 = i by omega]

@[simp] theorem fieldC_mk (op a b c : Byte) : fieldC (Word.mk op a b c) = c := by
  apply BitVec.eq_of_getLsbD_eq
  intro i hi
  simp only [fieldC, Word.mk, BitVec.getLsbD_extractLsb', BitVec.getLsbD_append]
  simp [hi]

/-- A word is its four fields. -/
theorem mk_fields (w : Word) : Word.mk (fieldOp w) (fieldA w) (fieldB w) (fieldC w) = w := by
  apply BitVec.eq_of_getLsbD_eq
  intro i hi
  simp only [fieldOp, fieldA, fieldB, fieldC, Word.mk, BitVec.getLsbD_extractLsb', BitVec.getLsbD_append]
  by_cases h0 : i < 8
  · simp [h0]
  by_cases h1 : i - 8 < 8
  · simp [h0, h1, show 8 + (i - 8) = i by omega]
  by_cases h2 : i - 8 - 8 < 8
  · simp [h0, h1, h2, show 16 + (i - 8 - 8) = i by omega]
  · simp [h0, h1, h2, show i - 8 - 8 - 8 < 8 by omega, show 24 + (i - 8 - 8 - 8) = i by omega]

/-- A word put together from bytes is the word of the same four bytes only. -/
theorem mk_eq_iff (op a b c : Byte) (w : Word) :
    Word.mk op a b c = w ↔ op = fieldOp w ∧ a = fieldA w ∧ b = fieldB w ∧ c = fieldC w := by
  constructor
  · rintro rfl; simp
  · rintro ⟨rfl, rfl, rfl, rfl⟩; exact mk_fields w

/-- The lanes of a word give the word back. -/
@[simp] theorem wordOfLanes_wordLanes (w : Word) : wordOfLanes (wordLanes w) = some w :=
  congrArg some (mk_fields w)

/-- Decoding the lanes of a word is decoding the word. -/
@[simp] theorem decodeBytes_wordLanes (w : Word) : decodeBytes (wordLanes w) = decode w := by
  unfold decodeBytes
  rw [wordOfLanes_wordLanes]

/-- Every command is well formed. -/
theorem instr_wf (i : Instr) : i.wf = true := by
  cases i <;>
    simp [Instr.wf, AsmLine.wf, Instr.asm, AsmLine.mnemonicOk, AsmLine.arityOk, AsmLine.rangeOk, AsmLine.arity] <;>
    omega

end Sys2Proof
end

