-- ==== Sys2Proof/Laws/Field.lean ====
section
/-! SUPPORT. The field functions as linear maps: every later fact about `gfMul` follows from its
linearity in each operand and from its values at the powers of x, which are powers of `xtime`. Nothing
here needs P(x) to be irreducible. -/

namespace Sys2Proof.Machine

/-! ## xtime -/

@[simp] theorem xtime_zero (p : BitVec 9) : xtime p 0x00#8 = 0x00#8 := by simp [xtime]

theorem xtime_xor (p : BitVec 9) (a b : Byte) : xtime p (a ^^^ b) = xtime p a ^^^ xtime p b := by
  unfold xtime
  rw [BitVec.getLsbD_xor, BitVec.shiftLeft_xor_distrib]
  cases a.getLsbD 7 <;> cases b.getLsbD 7 <;> simp only [Bool.xor_false, Bool.xor_true, Bool.not_true,
    Bool.not_false, if_true, if_false, Bool.false_eq_true, BitVec.xor_zero]
  · ac_rfl
  · ac_rfl
  · rw [BitVec.xor_assoc (a <<< 1), BitVec.xor_comm _ (b <<< 1 ^^^ _), BitVec.xor_assoc (b <<< 1), BitVec.xor_self,
      BitVec.xor_zero]

/-- `xtime` applied `n` times: the product with x^n. -/
def xtimes (p : BitVec 9) : Nat → Byte → Byte
  | 0, a => a
  | n + 1, a => xtime p (xtimes p n a)

theorem xtimes_succ (p : BitVec 9) (n : Nat) (a : Byte) : xtimes p (n + 1) a = xtime p (xtimes p n a) := rfl

theorem xtimes_succ' (p : BitVec 9) (n : Nat) (a : Byte) : xtimes p (n + 1) a = xtimes p n (xtime p a) := by
  induction n with
  | zero => rfl
  | succ n ih => rw [xtimes_succ, ih]; rfl

theorem xtimes_add (p : BitVec 9) (m n : Nat) (a : Byte) : xtimes p (m + n) a = xtimes p m (xtimes p n a) := by
  induction m with
  | zero => simp [xtimes]
  | succ m ih => rw [show m + 1 + n = m + n + 1 by omega, xtimes_succ, ih]; rfl

theorem xtimes_xor (p : BitVec 9) (n : Nat) (a b : Byte) :
    xtimes p n (a ^^^ b) = xtimes p n a ^^^ xtimes p n b := by
  induction n with
  | zero => rfl
  | succ n ih => rw [xtimes_succ, ih, xtime_xor]; rfl

@[simp] theorem xtimes_zero (p : BitVec 9) (n : Nat) : xtimes p n 0x00#8 = 0x00#8 := by
  induction n with
  | zero => rfl
  | succ n ih => rw [xtimes_succ, ih, xtime_zero]

/-- Below x^8 nothing is reduced: x^n is the byte with bit n set. -/
theorem xtimes_one (p : BitVec 9) : ∀ n, n < 8 → xtimes p n 0x01#8 = 0x01#8 <<< n := by
  intro n hn
  induction n with
  | zero => rfl
  | succ n ih =>
    rw [xtimes_succ, ih (by omega)]
    have h7 : (0x01#8 <<< n).getLsbD 7 = false := by
      have : ∀ k : Fin 7, (0x01#8 <<< k.val).getLsbD 7 = false := by decide
      exact this ⟨n, by omega⟩
    unfold xtime
    rw [h7]
    simp [BitVec.shiftLeft_add]

/-- x^8 is the low byte of P(x). -/
theorem xtimes_one_eight (p : BitVec 9) : xtimes p 8 0x01#8 = p.extractLsb' 0 8 := by
  rw [xtimes_succ, xtimes_one p 7 (by omega)]
  simp [xtime]

/-! ## Linear maps of bytes -/

/-- A map of bytes that respects exclusive OR. -/
def Linear (f : Byte → Byte) : Prop := ∀ a b, f (a ^^^ b) = f a ^^^ f b

theorem Linear.zero {f : Byte → Byte} (h : Linear f) : f 0x00#8 = 0x00#8 := by
  have := h 0x00#8 0x00#8
  simpa using this

/-- A byte is the exclusive OR of its set bits. -/
theorem byte_bits (b : Byte) :
    b = (((((((if b.getLsbD 0 then 0x01#8 <<< 0 else 0x00#8) ^^^ (if b.getLsbD 1 then 0x01#8 <<< 1 else 0x00#8)) ^^^
      (if b.getLsbD 2 then 0x01#8 <<< 2 else 0x00#8)) ^^^ (if b.getLsbD 3 then 0x01#8 <<< 3 else 0x00#8)) ^^^
      (if b.getLsbD 4 then 0x01#8 <<< 4 else 0x00#8)) ^^^ (if b.getLsbD 5 then 0x01#8 <<< 5 else 0x00#8)) ^^^
      (if b.getLsbD 6 then 0x01#8 <<< 6 else 0x00#8)) ^^^ (if b.getLsbD 7 then 0x01#8 <<< 7 else 0x00#8) := by
  revert b; decide

/-- Two linear maps that agree on the eight bits agree everywhere. -/
theorem Linear.ext {f g : Byte → Byte} (hf : Linear f) (hg : Linear g)
    (h : ∀ n, n < 8 → f (0x01#8 <<< n) = g (0x01#8 <<< n)) (b : Byte) : f b = g b := by
  have key : ∀ (c : Bool) (n : Nat), n < 8 →
      f (if c then 0x01#8 <<< n else 0x00#8) = g (if c then 0x01#8 <<< n else 0x00#8) := by
    intro c n hn
    cases c
    · simp [hf.zero, hg.zero]
    · simpa using h n hn
  rw [byte_bits b]
  simp only [hf _ _, hg _ _]
  rw [key _ 0 (by omega), key _ 1 (by omega), key _ 2 (by omega), key _ 3 (by omega), key _ 4 (by omega),
    key _ 5 (by omega), key _ 6 (by omega), key _ 7 (by omega)]

/-! ## gfMul -/

theorem gfMulTurn_xor_left (p : BitVec 9) (a a' b r r' : Byte) (i : Nat) :
    gfMulTurn p (a ^^^ a') b (r ^^^ r') i = gfMulTurn p a b r i ^^^ gfMulTurn p a' b r' i := by
  unfold gfMulTurn
  split <;> simp only [xtime_xor]
  ac_rfl

theorem gfMulTurn_xor_right (p : BitVec 9) (a b b' r r' : Byte) (i : Nat) :
    gfMulTurn p a (b ^^^ b') (r ^^^ r') i = gfMulTurn p a b r i ^^^ gfMulTurn p a b' r' i := by
  unfold gfMulTurn
  cases hb : b.getLsbD i <;> cases hb' : b'.getLsbD i <;>
    simp only [BitVec.getLsbD_xor, hb, hb', xtime_xor, Bool.xor_false, Bool.xor_true, Bool.not_true,
      Bool.not_false, if_true, if_false, Bool.false_eq_true]
  · ac_rfl
  · ac_rfl
  · have : ∀ x y : Byte, x ^^^ y = (x ^^^ a) ^^^ (y ^^^ a) := by
      intro x y
      rw [BitVec.xor_assoc, BitVec.xor_comm y a, ← BitVec.xor_assoc a a y, BitVec.xor_self, BitVec.zero_xor]
    exact this _ _

/-- `gfMul` is linear in its first operand. -/
theorem gfMul_xor_left (p : BitVec 9) (a a' b : Byte) :
    gfMul p (a ^^^ a') b = gfMul p a b ^^^ gfMul p a' b := by
  have : ∀ (l : List Nat) (r r' : Byte), l.foldl (gfMulTurn p (a ^^^ a') b) (r ^^^ r') =
      l.foldl (gfMulTurn p a b) r ^^^ l.foldl (gfMulTurn p a' b) r' := by
    intro l
    induction l with
    | nil => intro r r'; rfl
    | cons i l ih => intro r r'; simp only [List.foldl_cons, gfMulTurn_xor_left, ih]
  exact this _ 0x00#8 0x00#8

/-- `gfMul` is linear in its second operand. -/
theorem gfMul_xor_right (p : BitVec 9) (a b b' : Byte) :
    gfMul p a (b ^^^ b') = gfMul p a b ^^^ gfMul p a b' := by
  have : ∀ (l : List Nat) (r r' : Byte), l.foldl (gfMulTurn p a (b ^^^ b')) (r ^^^ r') =
      l.foldl (gfMulTurn p a b) r ^^^ l.foldl (gfMulTurn p a b') r' := by
    intro l
    induction l with
    | nil => intro r r'; rfl
    | cons i l ih => intro r r'; simp only [List.foldl_cons, gfMulTurn_xor_right, ih]
  exact this _ 0x00#8 0x00#8

/-- The product with x^n, n < 8, is `xtime` applied n times. -/
theorem gfMul_bit (p : BitVec 9) (a : Byte) : ∀ n, n < 8 → gfMul p a (0x01#8 <<< n) = xtimes p n a := by
  intro n hn
  have : n = 0 ∨ n = 1 ∨ n = 2 ∨ n = 3 ∨ n = 4 ∨ n = 5 ∨ n = 6 ∨ n = 7 := by omega
  rcases this with rfl | rfl | rfl | rfl | rfl | rfl | rfl | rfl <;>
    simp [gfMul, gfMulTurn, xtimes]

end Sys2Proof.Machine
end

