-- ==== Sys2Proof/Laws/Memory.lean ====
section
/-! SUPPORT. The laws of the entry memories: a read after a write, the canonical form, and equality
of canonical memories that read alike. -/

namespace Sys2Proof.Machine

/-! ## Reading after writing -/

@[simp] theorem Memory.read_nil (i : Byte) : Memory.read [] i = 0x00#8 := rfl

theorem Memory.read_cons (j : Nat) (v : Byte) (m : Memory) (i : Byte) :
    Memory.read ((j, v) :: m) i = if j = i.toNat then v else Memory.read m i := rfl

theorem Memory.read_without_same (m : Memory) (i : Byte) : (Memory.without m i).read i = 0x00#8 := by
  induction m with
  | nil => rfl
  | cons c m ih =>
    obtain ⟨j, v⟩ := c
    by_cases h : j = i.toNat
    · simpa [Memory.without, h] using ih
    · simpa [Memory.without, Memory.read_cons, h] using ih

theorem Memory.read_without_other (m : Memory) {i k : Byte} (hk : k ≠ i) :
    (Memory.without m i).read k = Memory.read m k := by
  have hne : ¬ i.toNat = k.toNat := fun h => hk (BitVec.eq_of_toNat_eq h.symm)
  induction m with
  | nil => rfl
  | cons c m ih =>
    obtain ⟨j, v⟩ := c
    by_cases h : j = i.toNat
    · have : (Memory.without ((j, v) :: m) i) = Memory.without m i := by simp [Memory.without, h]
      rw [this, ih, Memory.read_cons, if_neg (by omega)]
    · have : (Memory.without ((j, v) :: m) i) = (j, v) :: Memory.without m i := by simp [Memory.without, h]
      rw [this, Memory.read_cons, Memory.read_cons, ih]

theorem Memory.read_place_other (m : Memory) {j : Nat} (v : Byte) {k : Byte} (hk : j ≠ k.toNat) :
    (Memory.place (j, v) m).read k = Memory.read m k := by
  induction m with
  | nil => simp [Memory.place, Memory.read_cons, hk]
  | cons c m ih =>
    obtain ⟨l, u⟩ := c
    simp only [Memory.place]
    split
    · rw [Memory.read_cons, if_neg hk]
    · rw [Memory.read_cons, Memory.read_cons, ih]

theorem Memory.read_place_same (m : Memory) (i v : Byte) (h : ∀ c ∈ m, c.1 ≠ i.toNat) :
    (Memory.place (i.toNat, v) m).read i = v := by
  induction m with
  | nil => simp [Memory.place, Memory.read_cons]
  | cons c m ih =>
    obtain ⟨l, u⟩ := c
    simp only [Memory.place]
    split
    · simp [Memory.read_cons]
    · rw [Memory.read_cons, if_neg (h (l, u) (by simp))]
      exact ih fun c hc => h c (by simp [hc])

/-- A read of the entry just written gives the value written. -/
@[simp] theorem Memory.read_write_same (m : Memory) (i v : Byte) : (m.write i v).read i = v := by
  unfold Memory.write
  split
  · rename_i h; rw [Memory.read_without_same, h]; rfl
  · exact Memory.read_place_same _ _ _ (by simp [Memory.without])

/-- A write leaves every other entry alone. -/
theorem Memory.read_write_other (m : Memory) {i k : Byte} (v : Byte) (hk : k ≠ i) :
    (m.write i v).read k = Memory.read m k := by
  have hne : i.toNat ≠ k.toNat := fun h => hk (BitVec.eq_of_toNat_eq h.symm)
  unfold Memory.write
  split
  · exact Memory.read_without_other m hk
  · rw [Memory.read_place_other _ _ hne, Memory.read_without_other m hk]

/-! ## The canonical form -/

theorem Memory.wfFrom_mono {low high : Nat} (h : low ≤ high) {m : Memory}
    (hm : Memory.wfFrom high m = true) : Memory.wfFrom low m = true := by
  cases m with
  | nil => rfl
  | cons c m =>
    obtain ⟨j, v⟩ := c
    simp only [Memory.wfFrom, Bool.and_eq_true, decide_eq_true_eq] at hm ⊢
    exact ⟨⟨⟨by omega, hm.1.1.2⟩, hm.1.2⟩, hm.2⟩

theorem Memory.wfFrom_without (m : Memory) (i : Byte) : ∀ low, Memory.wfFrom low m = true →
    Memory.wfFrom low (Memory.without m i) = true := by
  induction m with
  | nil => intro low _; rfl
  | cons c m ih =>
    intro low h
    obtain ⟨j, v⟩ := c
    simp only [Memory.wfFrom, Bool.and_eq_true, decide_eq_true_eq] at h
    by_cases hj : j = i.toNat
    · have : (Memory.without ((j, v) :: m) i) = Memory.without m i := by simp [Memory.without, hj]
      rw [this]
      exact Memory.wfFrom_mono (by omega) (ih _ h.2)
    · have : (Memory.without ((j, v) :: m) i) = (j, v) :: Memory.without m i := by simp [Memory.without, hj]
      rw [this]
      simp only [Memory.wfFrom, Bool.and_eq_true, decide_eq_true_eq]
      exact ⟨h.1, ih _ h.2⟩

theorem Memory.wfFrom_place (m : Memory) {j : Nat} {v : Byte} (hj : j < 256) (hv : v ≠ Memory.blank) :
    ∀ low, low ≤ j → (∀ c ∈ m, c.1 ≠ j) → Memory.wfFrom low m = true →
      Memory.wfFrom low (Memory.place (j, v) m) = true := by
  induction m with
  | nil => intro low hl _ _; simp [Memory.place, Memory.wfFrom, hl, hj, hv]
  | cons c m ih =>
    intro low hl hne h
    obtain ⟨l, u⟩ := c
    have hlj : l ≠ j := hne (l, u) (by simp)
    simp only [Memory.wfFrom, Bool.and_eq_true, decide_eq_true_eq] at h
    simp only [Memory.place]
    split
    · simp only [Memory.wfFrom, Bool.and_eq_true, decide_eq_true_eq, bne_iff_ne]
      exact ⟨⟨⟨hl, hj⟩, hv⟩, ⟨⟨by omega, h.1.1.2⟩, by simpa using h.1.2⟩, h.2⟩
    · simp only [Memory.wfFrom, Bool.and_eq_true, decide_eq_true_eq]
      exact ⟨h.1, ih _ (by omega) (fun c hc => hne c (by simp [hc])) h.2⟩

/-- A write keeps the canonical form. -/
theorem Memory.wf_write {m : Memory} (i v : Byte) (h : m.wf = true) : (m.write i v).wf = true := by
  unfold Memory.write
  split
  · exact Memory.wfFrom_without m i 0 h
  · rename_i hv
    exact Memory.wfFrom_place _ i.isLt hv 0 (Nat.zero_le _) (by simp [Memory.without])
      (Memory.wfFrom_without m i 0 h)

/-- The empty array is in canonical form. -/
@[simp] theorem Memory.wf_nil : Memory.wf [] = true := rfl

/-- A memory built from bytes is in canonical form. -/
theorem Memory.wfFrom_ofBytes (vs : List Byte) : ∀ k, k + vs.length ≤ 256 →
    Memory.wfFrom k (Memory.ofBytes k vs) = true := by
  induction vs with
  | nil => intro k _; rfl
  | cons v vs ih =>
    intro k hk
    simp only [List.length_cons] at hk
    simp only [Memory.ofBytes]
    split
    · exact Memory.wfFrom_mono (Nat.le_succ k) (ih (k + 1) (by omega))
    · rename_i hv
      simp only [Memory.wfFrom, Bool.and_eq_true, decide_eq_true_eq, bne_iff_ne]
      exact ⟨⟨⟨Nat.le_refl k, by omega⟩, hv⟩, ih (k + 1) (by omega)⟩

/-- Entry k + n of a memory built from bytes is byte n. -/
theorem Memory.read_ofBytes (vs : List Byte) : ∀ (k n : Nat) (i : Byte), i.toNat = k + n →
    (Memory.ofBytes k vs).read i = vs.getD n 0x00#8 := by
  induction vs with
  | nil => intro k n i _; simp [Memory.ofBytes]
  | cons v vs ih =>
    have below : ∀ (us : List Byte) (l : Nat) (i : Byte), i.toNat < l → (Memory.ofBytes l us).read i = 0x00#8 := by
      intro us
      induction us with
      | nil => intro l i _; rfl
      | cons u us ih' =>
        intro l i hl
        simp only [Memory.ofBytes]
        split
        · exact ih' (l + 1) i (by omega)
        · rw [Memory.read_cons, if_neg (by omega)]; exact ih' (l + 1) i (by omega)
    intro k n i hi
    cases n with
    | zero =>
      simp only [Memory.ofBytes, List.getD_cons_zero]
      split
      · rename_i hv; rw [below vs (k + 1) i (by omega), hv]; rfl
      · rw [Memory.read_cons, if_pos (by omega)]
    | succ n =>
      simp only [Memory.ofBytes, List.getD_cons_succ]
      split
      · exact ih (k + 1) n i (by omega)
      · rw [Memory.read_cons, if_neg (by omega)]; exact ih (k + 1) n i (by omega)

/-! ## Canonical memories that read alike are equal -/

theorem Memory.read_below {m : Memory} : ∀ {low : Nat}, Memory.wfFrom low m = true →
    ∀ i : Byte, i.toNat < low → Memory.read m i = 0x00#8 := by
  induction m with
  | nil => intro low _ i _; rfl
  | cons c m ih =>
    intro low h i hi
    obtain ⟨j, v⟩ := c
    simp only [Memory.wfFrom, Bool.and_eq_true, decide_eq_true_eq] at h
    rw [Memory.read_cons, if_neg (by omega)]
    exact ih h.2 i (by omega)

theorem Memory.ext_from {m : Memory} : ∀ {n : Memory} {low low' : Nat}, Memory.wfFrom low m = true →
    Memory.wfFrom low' n = true → (∀ i, Memory.read m i = Memory.read n i) → m = n := by
  have head_ne : ∀ (j : Nat) (v : Byte) (m n : Memory) (low : Nat), j < 256 → v ≠ 0x00#8 →
      Memory.wfFrom low n = true → j < low → ¬ (∀ i, Memory.read ((j, v) :: m) i = Memory.read n i) := by
    intro j v m n low hj hv hn hlow heq
    have hi : (BitVec.ofNat 8 j).toNat = j := by simp; omega
    have := heq (BitVec.ofNat 8 j)
    rw [Memory.read_cons, if_pos hi.symm, Memory.read_below hn _ (by omega)] at this
    exact hv this
  induction m with
  | nil =>
    intro n low low' _ hn heq
    cases n with
    | nil => rfl
    | cons d n =>
      obtain ⟨l, u⟩ := d
      simp only [Memory.wfFrom, Bool.and_eq_true, decide_eq_true_eq, bne_iff_ne] at hn
      exact absurd (fun i => (heq i).symm) (head_ne l u n [] 256 hn.1.1.2 hn.1.2 rfl hn.1.1.2)
  | cons c m ih =>
    intro n low low' hm hn heq
    obtain ⟨j, v⟩ := c
    have hm' := hm
    simp only [Memory.wfFrom, Bool.and_eq_true, decide_eq_true_eq, bne_iff_ne] at hm
    cases n with
    | nil => exact absurd heq (head_ne j v m [] 256 hm.1.1.2 hm.1.2 rfl hm.1.1.2)
    | cons d n =>
      obtain ⟨l, u⟩ := d
      have hn' := hn
      simp only [Memory.wfFrom, Bool.and_eq_true, decide_eq_true_eq, bne_iff_ne] at hn
      rcases Nat.lt_trichotomy j l with hlt | rfl | hlt
      · have hn2 : Memory.wfFrom l ((l, u) :: n) = true := by
          simp only [Memory.wfFrom, Bool.and_eq_true, decide_eq_true_eq, bne_iff_ne]
          exact ⟨⟨⟨Nat.le_refl l, hn.1.1.2⟩, hn.1.2⟩, hn.2⟩
        exact absurd heq (head_ne j v m _ l hm.1.1.2 hm.1.2 hn2 hlt)
      · have hi : (BitVec.ofNat 8 j).toNat = j := by simp; omega
        have hv : v = u := by
          have := heq (BitVec.ofNat 8 j)
          rwa [Memory.read_cons, Memory.read_cons, if_pos hi.symm, if_pos hi.symm] at this
        have htail : m = n := by
          refine ih hm.2 hn.2 fun i => ?_
          by_cases hij : j = i.toNat
          · rw [Memory.read_below hm.2 i (by omega), Memory.read_below hn.2 i (by omega)]
          · have := heq i
            rwa [Memory.read_cons, Memory.read_cons, if_neg hij, if_neg hij] at this
        rw [hv, htail]
      · have hm2 : Memory.wfFrom j ((j, v) :: m) = true := by
          simp only [Memory.wfFrom, Bool.and_eq_true, decide_eq_true_eq, bne_iff_ne]
          exact ⟨⟨⟨Nat.le_refl j, hm.1.1.2⟩, hm.1.2⟩, hm.2⟩
        exact absurd (fun i => (heq i).symm) (head_ne l u n _ j hn.1.1.2 hn.1.2 hm2 hlt)

/-- Two canonical memories with the same entries are the same data. -/
theorem Memory.ext_of_wf {m n : Memory} (hm : m.wf = true) (hn : n.wf = true)
    (h : ∀ i, Memory.read m i = Memory.read n i) : m = n :=
  Memory.ext_from hm hn h

end Sys2Proof.Machine
end

