-- ==== Sys2Proof/Laws/State.lean ====
section
/-! SUPPORT. One lemma per field per update of the state, so that no proof unfolds a record update. -/

namespace Sys2Proof.Machine

variable (s : State)

/-! ### setRes -/

@[simp] theorem State.setRes_cfg (v : Byte) : (s.setRes v).cfg = s.cfg := rfl
@[simp] theorem State.setRes_busy (v : Byte) : (s.setRes v).busy = s.busy := rfl
@[simp] theorem State.setRes_done (v : Byte) : (s.setRes v).done = s.done := rfl
@[simp] theorem State.setRes_ovr (v : Byte) : (s.setRes v).ovr = s.ovr := rfl
@[simp] theorem State.setRes_err (v : Byte) : (s.setRes v).err = s.err := rfl
@[simp] theorem State.setRes_errInfo (v : Byte) : (s.setRes v).errInfo = s.errInfo := rfl
@[simp] theorem State.setRes_res (v : Byte) : (s.setRes v).res = v := rfl
@[simp] theorem State.setRes_coef (v : Byte) : (s.setRes v).coef = s.coef := rfl
@[simp] theorem State.setRes_px (v : Byte) : (s.setRes v).px = s.px := rfl
@[simp] theorem State.setRes_py (v : Byte) : (s.setRes v).py = s.py := rfl
@[simp] theorem State.setRes_expTab (v : Byte) : (s.setRes v).expTab = s.expTab := rfl
@[simp] theorem State.setRes_logTab (v : Byte) : (s.setRes v).logTab = s.logTab := rfl
@[simp] theorem State.setRes_pending (v : Byte) : (s.setRes v).pending = s.pending := rfl
@[simp] theorem State.setRes_initialising (v : Byte) : (s.setRes v).initialising = s.initialising := rfl
@[simp] theorem State.setRes_resetIn (v : Byte) : (s.setRes v).resetIn = s.resetIn := rfl
@[simp] theorem State.setRes_delay (v : Byte) : (s.setRes v).delay = s.delay := rfl
@[simp] theorem State.setRes_delays (v : Byte) : (s.setRes v).delays = s.delays := rfl
@[simp] theorem State.setRes_host (v : Byte) : (s.setRes v).host = s.host := rfl
@[simp] theorem State.setRes_hostLog (v : Byte) : (s.setRes v).hostLog = s.hostLog := rfl

/-! ### setCoef -/

@[simp] theorem State.setCoef_cfg (i v : Byte) : (s.setCoef i v).cfg = s.cfg := rfl
@[simp] theorem State.setCoef_busy (i v : Byte) : (s.setCoef i v).busy = s.busy := rfl
@[simp] theorem State.setCoef_done (i v : Byte) : (s.setCoef i v).done = s.done := rfl
@[simp] theorem State.setCoef_ovr (i v : Byte) : (s.setCoef i v).ovr = s.ovr := rfl
@[simp] theorem State.setCoef_err (i v : Byte) : (s.setCoef i v).err = s.err := rfl
@[simp] theorem State.setCoef_errInfo (i v : Byte) : (s.setCoef i v).errInfo = s.errInfo := rfl
@[simp] theorem State.setCoef_res (i v : Byte) : (s.setCoef i v).res = s.res := rfl
@[simp] theorem State.setCoef_coef (i v : Byte) : (s.setCoef i v).coef = s.coef.write i v := rfl
@[simp] theorem State.setCoef_px (i v : Byte) : (s.setCoef i v).px = s.px := rfl
@[simp] theorem State.setCoef_py (i v : Byte) : (s.setCoef i v).py = s.py := rfl
@[simp] theorem State.setCoef_expTab (i v : Byte) : (s.setCoef i v).expTab = s.expTab := rfl
@[simp] theorem State.setCoef_logTab (i v : Byte) : (s.setCoef i v).logTab = s.logTab := rfl
@[simp] theorem State.setCoef_pending (i v : Byte) : (s.setCoef i v).pending = s.pending := rfl
@[simp] theorem State.setCoef_initialising (i v : Byte) : (s.setCoef i v).initialising = s.initialising := rfl
@[simp] theorem State.setCoef_resetIn (i v : Byte) : (s.setCoef i v).resetIn = s.resetIn := rfl
@[simp] theorem State.setCoef_delay (i v : Byte) : (s.setCoef i v).delay = s.delay := rfl
@[simp] theorem State.setCoef_delays (i v : Byte) : (s.setCoef i v).delays = s.delays := rfl
@[simp] theorem State.setCoef_host (i v : Byte) : (s.setCoef i v).host = s.host := rfl
@[simp] theorem State.setCoef_hostLog (i v : Byte) : (s.setCoef i v).hostLog = s.hostLog := rfl

/-! ### setPoint -/

@[simp] theorem State.setPoint_cfg (i x y : Byte) : (s.setPoint i x y).cfg = s.cfg := rfl
@[simp] theorem State.setPoint_busy (i x y : Byte) : (s.setPoint i x y).busy = s.busy := rfl
@[simp] theorem State.setPoint_done (i x y : Byte) : (s.setPoint i x y).done = s.done := rfl
@[simp] theorem State.setPoint_ovr (i x y : Byte) : (s.setPoint i x y).ovr = s.ovr := rfl
@[simp] theorem State.setPoint_err (i x y : Byte) : (s.setPoint i x y).err = s.err := rfl
@[simp] theorem State.setPoint_errInfo (i x y : Byte) : (s.setPoint i x y).errInfo = s.errInfo := rfl
@[simp] theorem State.setPoint_res (i x y : Byte) : (s.setPoint i x y).res = s.res := rfl
@[simp] theorem State.setPoint_coef (i x y : Byte) : (s.setPoint i x y).coef = s.coef := rfl
@[simp] theorem State.setPoint_px (i x y : Byte) : (s.setPoint i x y).px = s.px.write i x := rfl
@[simp] theorem State.setPoint_py (i x y : Byte) : (s.setPoint i x y).py = s.py.write i y := rfl
@[simp] theorem State.setPoint_expTab (i x y : Byte) : (s.setPoint i x y).expTab = s.expTab := rfl
@[simp] theorem State.setPoint_logTab (i x y : Byte) : (s.setPoint i x y).logTab = s.logTab := rfl
@[simp] theorem State.setPoint_pending (i x y : Byte) : (s.setPoint i x y).pending = s.pending := rfl
@[simp] theorem State.setPoint_initialising (i x y : Byte) : (s.setPoint i x y).initialising = s.initialising := rfl
@[simp] theorem State.setPoint_resetIn (i x y : Byte) : (s.setPoint i x y).resetIn = s.resetIn := rfl
@[simp] theorem State.setPoint_delay (i x y : Byte) : (s.setPoint i x y).delay = s.delay := rfl
@[simp] theorem State.setPoint_delays (i x y : Byte) : (s.setPoint i x y).delays = s.delays := rfl
@[simp] theorem State.setPoint_host (i x y : Byte) : (s.setPoint i x y).host = s.host := rfl
@[simp] theorem State.setPoint_hostLog (i x y : Byte) : (s.setPoint i x y).hostLog = s.hostLog := rfl

/-! ### clearArrays -/

@[simp] theorem State.clearArrays_cfg : (s.clearArrays).cfg = s.cfg := rfl
@[simp] theorem State.clearArrays_busy : (s.clearArrays).busy = s.busy := rfl
@[simp] theorem State.clearArrays_done : (s.clearArrays).done = s.done := rfl
@[simp] theorem State.clearArrays_ovr : (s.clearArrays).ovr = s.ovr := rfl
@[simp] theorem State.clearArrays_err : (s.clearArrays).err = s.err := rfl
@[simp] theorem State.clearArrays_errInfo : (s.clearArrays).errInfo = s.errInfo := rfl
@[simp] theorem State.clearArrays_res : (s.clearArrays).res = s.res := rfl
@[simp] theorem State.clearArrays_coef : (s.clearArrays).coef = [] := rfl
@[simp] theorem State.clearArrays_px : (s.clearArrays).px = [] := rfl
@[simp] theorem State.clearArrays_py : (s.clearArrays).py = [] := rfl
@[simp] theorem State.clearArrays_expTab : (s.clearArrays).expTab = s.expTab := rfl
@[simp] theorem State.clearArrays_logTab : (s.clearArrays).logTab = s.logTab := rfl
@[simp] theorem State.clearArrays_pending : (s.clearArrays).pending = s.pending := rfl
@[simp] theorem State.clearArrays_initialising : (s.clearArrays).initialising = s.initialising := rfl
@[simp] theorem State.clearArrays_resetIn : (s.clearArrays).resetIn = s.resetIn := rfl
@[simp] theorem State.clearArrays_delay : (s.clearArrays).delay = s.delay := rfl
@[simp] theorem State.clearArrays_delays : (s.clearArrays).delays = s.delays := rfl
@[simp] theorem State.clearArrays_host : (s.clearArrays).host = s.host := rfl
@[simp] theorem State.clearArrays_hostLog : (s.clearArrays).hostLog = s.hostLog := rfl

/-! ### succeed -/

@[simp] theorem State.succeed_cfg : (s.succeed).cfg = s.cfg := rfl
@[simp] theorem State.succeed_busy : (s.succeed).busy = false := rfl
@[simp] theorem State.succeed_done : (s.succeed).done = true := rfl
@[simp] theorem State.succeed_ovr : (s.succeed).ovr = s.ovr := rfl
@[simp] theorem State.succeed_err : (s.succeed).err = s.err := rfl
@[simp] theorem State.succeed_errInfo : (s.succeed).errInfo = s.errInfo := rfl
@[simp] theorem State.succeed_res : (s.succeed).res = s.res := rfl
@[simp] theorem State.succeed_coef : (s.succeed).coef = s.coef := rfl
@[simp] theorem State.succeed_px : (s.succeed).px = s.px := rfl
@[simp] theorem State.succeed_py : (s.succeed).py = s.py := rfl
@[simp] theorem State.succeed_expTab : (s.succeed).expTab = s.expTab := rfl
@[simp] theorem State.succeed_logTab : (s.succeed).logTab = s.logTab := rfl
@[simp] theorem State.succeed_pending : (s.succeed).pending = none := rfl
@[simp] theorem State.succeed_initialising : (s.succeed).initialising = s.initialising := rfl
@[simp] theorem State.succeed_resetIn : (s.succeed).resetIn = s.resetIn := rfl
@[simp] theorem State.succeed_delay : (s.succeed).delay = s.delay := rfl
@[simp] theorem State.succeed_delays : (s.succeed).delays = s.delays := rfl
@[simp] theorem State.succeed_host : (s.succeed).host = s.host := rfl
@[simp] theorem State.succeed_hostLog : (s.succeed).hostLog = s.hostLog := rfl

/-! ### raise -/

@[simp] theorem State.raise_cfg (e : ErrKind) (info : Byte) : (s.raise e info).cfg = s.cfg := rfl
@[simp] theorem State.raise_busy (e : ErrKind) (info : Byte) : (s.raise e info).busy = false := rfl
@[simp] theorem State.raise_done (e : ErrKind) (info : Byte) : (s.raise e info).done = s.done := rfl
@[simp] theorem State.raise_ovr (e : ErrKind) (info : Byte) : (s.raise e info).ovr = s.ovr := rfl
@[simp] theorem State.raise_err (e : ErrKind) (info : Byte) : (s.raise e info).err = errCode e := rfl
@[simp] theorem State.raise_errInfo (e : ErrKind) (info : Byte) : (s.raise e info).errInfo = info := rfl
@[simp] theorem State.raise_res (e : ErrKind) (info : Byte) : (s.raise e info).res = s.res := rfl
@[simp] theorem State.raise_coef (e : ErrKind) (info : Byte) : (s.raise e info).coef = s.coef := rfl
@[simp] theorem State.raise_px (e : ErrKind) (info : Byte) : (s.raise e info).px = s.px := rfl
@[simp] theorem State.raise_py (e : ErrKind) (info : Byte) : (s.raise e info).py = s.py := rfl
@[simp] theorem State.raise_expTab (e : ErrKind) (info : Byte) : (s.raise e info).expTab = s.expTab := rfl
@[simp] theorem State.raise_logTab (e : ErrKind) (info : Byte) : (s.raise e info).logTab = s.logTab := rfl
@[simp] theorem State.raise_pending (e : ErrKind) (info : Byte) : (s.raise e info).pending = none := rfl
@[simp] theorem State.raise_initialising (e : ErrKind) (info : Byte) : (s.raise e info).initialising = s.initialising := rfl
@[simp] theorem State.raise_resetIn (e : ErrKind) (info : Byte) : (s.raise e info).resetIn = s.resetIn := rfl
@[simp] theorem State.raise_delay (e : ErrKind) (info : Byte) : (s.raise e info).delay = s.delay := rfl
@[simp] theorem State.raise_delays (e : ErrKind) (info : Byte) : (s.raise e info).delays = s.delays := rfl
@[simp] theorem State.raise_host (e : ErrKind) (info : Byte) : (s.raise e info).host = s.host := rfl
@[simp] theorem State.raise_hostLog (e : ErrKind) (info : Byte) : (s.raise e info).hostLog = s.hostLog := rfl

/-! ### clearErrors -/

@[simp] theorem State.clearErrors_cfg : (s.clearErrors).cfg = s.cfg := rfl
@[simp] theorem State.clearErrors_busy : (s.clearErrors).busy = s.busy := rfl
@[simp] theorem State.clearErrors_done : (s.clearErrors).done = s.done := rfl
@[simp] theorem State.clearErrors_ovr : (s.clearErrors).ovr = false := rfl
@[simp] theorem State.clearErrors_err : (s.clearErrors).err = 0#4 := rfl
@[simp] theorem State.clearErrors_errInfo : (s.clearErrors).errInfo = 0x00#8 := rfl
@[simp] theorem State.clearErrors_res : (s.clearErrors).res = s.res := rfl
@[simp] theorem State.clearErrors_coef : (s.clearErrors).coef = s.coef := rfl
@[simp] theorem State.clearErrors_px : (s.clearErrors).px = s.px := rfl
@[simp] theorem State.clearErrors_py : (s.clearErrors).py = s.py := rfl
@[simp] theorem State.clearErrors_expTab : (s.clearErrors).expTab = s.expTab := rfl
@[simp] theorem State.clearErrors_logTab : (s.clearErrors).logTab = s.logTab := rfl
@[simp] theorem State.clearErrors_pending : (s.clearErrors).pending = s.pending := rfl
@[simp] theorem State.clearErrors_initialising : (s.clearErrors).initialising = s.initialising := rfl
@[simp] theorem State.clearErrors_resetIn : (s.clearErrors).resetIn = s.resetIn := rfl
@[simp] theorem State.clearErrors_delay : (s.clearErrors).delay = s.delay := rfl
@[simp] theorem State.clearErrors_delays : (s.clearErrors).delays = s.delays := rfl
@[simp] theorem State.clearErrors_host : (s.clearErrors).host = s.host := rfl
@[simp] theorem State.clearErrors_hostLog : (s.clearErrors).hostLog = s.hostLog := rfl

/-! ### drawDelay -/

@[simp] theorem State.drawDelay_cfg : (s.drawDelay).cfg = s.cfg := rfl
@[simp] theorem State.drawDelay_busy : (s.drawDelay).busy = s.busy := rfl
@[simp] theorem State.drawDelay_done : (s.drawDelay).done = s.done := rfl
@[simp] theorem State.drawDelay_ovr : (s.drawDelay).ovr = s.ovr := rfl
@[simp] theorem State.drawDelay_err : (s.drawDelay).err = s.err := rfl
@[simp] theorem State.drawDelay_errInfo : (s.drawDelay).errInfo = s.errInfo := rfl
@[simp] theorem State.drawDelay_res : (s.drawDelay).res = s.res := rfl
@[simp] theorem State.drawDelay_coef : (s.drawDelay).coef = s.coef := rfl
@[simp] theorem State.drawDelay_px : (s.drawDelay).px = s.px := rfl
@[simp] theorem State.drawDelay_py : (s.drawDelay).py = s.py := rfl
@[simp] theorem State.drawDelay_expTab : (s.drawDelay).expTab = s.expTab := rfl
@[simp] theorem State.drawDelay_logTab : (s.drawDelay).logTab = s.logTab := rfl
@[simp] theorem State.drawDelay_pending : (s.drawDelay).pending = s.pending := rfl
@[simp] theorem State.drawDelay_initialising : (s.drawDelay).initialising = s.initialising := rfl
@[simp] theorem State.drawDelay_resetIn : (s.drawDelay).resetIn = s.resetIn := rfl
@[simp] theorem State.drawDelay_delay : (s.drawDelay).delay = nextDelay s.delays := rfl
@[simp] theorem State.drawDelay_delays : (s.drawDelay).delays = s.delays.tail := rfl
@[simp] theorem State.drawDelay_host : (s.drawDelay).host = s.host := rfl
@[simp] theorem State.drawDelay_hostLog : (s.drawDelay).hostLog = s.hostLog := rfl

/-! ### accept -/

@[simp] theorem State.accept_cfg (w : Word) : (s.accept w).cfg = s.cfg := rfl
@[simp] theorem State.accept_busy (w : Word) : (s.accept w).busy = true := rfl
@[simp] theorem State.accept_done (w : Word) : (s.accept w).done = false := rfl
@[simp] theorem State.accept_ovr (w : Word) : (s.accept w).ovr = s.ovr := rfl
@[simp] theorem State.accept_err (w : Word) : (s.accept w).err = s.err := rfl
@[simp] theorem State.accept_errInfo (w : Word) : (s.accept w).errInfo = s.errInfo := rfl
@[simp] theorem State.accept_res (w : Word) : (s.accept w).res = s.res := rfl
@[simp] theorem State.accept_coef (w : Word) : (s.accept w).coef = s.coef := rfl
@[simp] theorem State.accept_px (w : Word) : (s.accept w).px = s.px := rfl
@[simp] theorem State.accept_py (w : Word) : (s.accept w).py = s.py := rfl
@[simp] theorem State.accept_expTab (w : Word) : (s.accept w).expTab = s.expTab := rfl
@[simp] theorem State.accept_logTab (w : Word) : (s.accept w).logTab = s.logTab := rfl
@[simp] theorem State.accept_pending (w : Word) : (s.accept w).pending = some w := rfl
@[simp] theorem State.accept_initialising (w : Word) : (s.accept w).initialising = s.initialising := rfl
@[simp] theorem State.accept_resetIn (w : Word) : (s.accept w).resetIn = s.resetIn := rfl
@[simp] theorem State.accept_delay (w : Word) : (s.accept w).delay = nextDelay s.delays := rfl
@[simp] theorem State.accept_delays (w : Word) : (s.accept w).delays = s.delays.tail := rfl
@[simp] theorem State.accept_host (w : Word) : (s.accept w).host = s.host := rfl
@[simp] theorem State.accept_hostLog (w : Word) : (s.accept w).hostLog = s.hostLog := rfl

/-! ### refuse -/

@[simp] theorem State.refuse_cfg : (s.refuse).cfg = s.cfg := rfl
@[simp] theorem State.refuse_busy : (s.refuse).busy = s.busy := rfl
@[simp] theorem State.refuse_done : (s.refuse).done = s.done := rfl
@[simp] theorem State.refuse_ovr : (s.refuse).ovr = true := rfl
@[simp] theorem State.refuse_err : (s.refuse).err = s.err := rfl
@[simp] theorem State.refuse_errInfo : (s.refuse).errInfo = s.errInfo := rfl
@[simp] theorem State.refuse_res : (s.refuse).res = s.res := rfl
@[simp] theorem State.refuse_coef : (s.refuse).coef = s.coef := rfl
@[simp] theorem State.refuse_px : (s.refuse).px = s.px := rfl
@[simp] theorem State.refuse_py : (s.refuse).py = s.py := rfl
@[simp] theorem State.refuse_expTab : (s.refuse).expTab = s.expTab := rfl
@[simp] theorem State.refuse_logTab : (s.refuse).logTab = s.logTab := rfl
@[simp] theorem State.refuse_pending : (s.refuse).pending = s.pending := rfl
@[simp] theorem State.refuse_initialising : (s.refuse).initialising = s.initialising := rfl
@[simp] theorem State.refuse_resetIn : (s.refuse).resetIn = s.resetIn := rfl
@[simp] theorem State.refuse_delay : (s.refuse).delay = s.delay := rfl
@[simp] theorem State.refuse_delays : (s.refuse).delays = s.delays := rfl
@[simp] theorem State.refuse_host : (s.refuse).host = s.host := rfl
@[simp] theorem State.refuse_hostLog : (s.refuse).hostLog = s.hostLog := rfl

/-! ### assertReset -/

@[simp] theorem State.assertReset_cfg : (s.assertReset).cfg = s.cfg := rfl
@[simp] theorem State.assertReset_busy : (s.assertReset).busy = true := rfl
@[simp] theorem State.assertReset_done : (s.assertReset).done = false := rfl
@[simp] theorem State.assertReset_ovr : (s.assertReset).ovr = false := rfl
@[simp] theorem State.assertReset_err : (s.assertReset).err = 0#4 := rfl
@[simp] theorem State.assertReset_errInfo : (s.assertReset).errInfo = 0x00#8 := rfl
@[simp] theorem State.assertReset_res : (s.assertReset).res = 0x00#8 := rfl
@[simp] theorem State.assertReset_coef : (s.assertReset).coef = s.coef := rfl
@[simp] theorem State.assertReset_px : (s.assertReset).px = s.px := rfl
@[simp] theorem State.assertReset_py : (s.assertReset).py = s.py := rfl
@[simp] theorem State.assertReset_expTab : (s.assertReset).expTab = s.expTab := rfl
@[simp] theorem State.assertReset_logTab : (s.assertReset).logTab = s.logTab := rfl
@[simp] theorem State.assertReset_pending : (s.assertReset).pending = none := rfl
@[simp] theorem State.assertReset_initialising : (s.assertReset).initialising = true := rfl
@[simp] theorem State.assertReset_resetIn : (s.assertReset).resetIn = true := rfl
@[simp] theorem State.assertReset_delay : (s.assertReset).delay = nextDelay s.delays := rfl
@[simp] theorem State.assertReset_delays : (s.assertReset).delays = s.delays.tail := rfl
@[simp] theorem State.assertReset_host : (s.assertReset).host = s.host := rfl
@[simp] theorem State.assertReset_hostLog : (s.assertReset).hostLog = s.hostLog := rfl

/-! ### releaseReset -/

@[simp] theorem State.releaseReset_cfg : (s.releaseReset).cfg = s.cfg := rfl
@[simp] theorem State.releaseReset_busy : (s.releaseReset).busy = s.busy := rfl
@[simp] theorem State.releaseReset_done : (s.releaseReset).done = s.done := rfl
@[simp] theorem State.releaseReset_ovr : (s.releaseReset).ovr = s.ovr := rfl
@[simp] theorem State.releaseReset_err : (s.releaseReset).err = s.err := rfl
@[simp] theorem State.releaseReset_errInfo : (s.releaseReset).errInfo = s.errInfo := rfl
@[simp] theorem State.releaseReset_res : (s.releaseReset).res = s.res := rfl
@[simp] theorem State.releaseReset_coef : (s.releaseReset).coef = s.coef := rfl
@[simp] theorem State.releaseReset_px : (s.releaseReset).px = s.px := rfl
@[simp] theorem State.releaseReset_py : (s.releaseReset).py = s.py := rfl
@[simp] theorem State.releaseReset_expTab : (s.releaseReset).expTab = s.expTab := rfl
@[simp] theorem State.releaseReset_logTab : (s.releaseReset).logTab = s.logTab := rfl
@[simp] theorem State.releaseReset_pending : (s.releaseReset).pending = s.pending := rfl
@[simp] theorem State.releaseReset_initialising : (s.releaseReset).initialising = s.initialising := rfl
@[simp] theorem State.releaseReset_resetIn : (s.releaseReset).resetIn = false := rfl
@[simp] theorem State.releaseReset_delay : (s.releaseReset).delay = s.delay := rfl
@[simp] theorem State.releaseReset_delays : (s.releaseReset).delays = s.delays := rfl
@[simp] theorem State.releaseReset_host : (s.releaseReset).host = s.host := rfl
@[simp] theorem State.releaseReset_hostLog : (s.releaseReset).hostLog = s.hostLog := rfl

/-! ### buildTables -/

@[simp] theorem State.buildTables_cfg : (s.buildTables).cfg = s.cfg := by unfold State.buildTables; split <;> rfl
@[simp] theorem State.buildTables_busy : (s.buildTables).busy = s.busy := by unfold State.buildTables; split <;> rfl
@[simp] theorem State.buildTables_done : (s.buildTables).done = s.done := by unfold State.buildTables; split <;> rfl
@[simp] theorem State.buildTables_ovr : (s.buildTables).ovr = s.ovr := by unfold State.buildTables; split <;> rfl
@[simp] theorem State.buildTables_err : (s.buildTables).err = s.err := by unfold State.buildTables; split <;> rfl
@[simp] theorem State.buildTables_errInfo : (s.buildTables).errInfo = s.errInfo := by unfold State.buildTables; split <;> rfl
@[simp] theorem State.buildTables_res : (s.buildTables).res = s.res := by unfold State.buildTables; split <;> rfl
@[simp] theorem State.buildTables_coef : (s.buildTables).coef = s.coef := by unfold State.buildTables; split <;> rfl
@[simp] theorem State.buildTables_px : (s.buildTables).px = s.px := by unfold State.buildTables; split <;> rfl
@[simp] theorem State.buildTables_py : (s.buildTables).py = s.py := by unfold State.buildTables; split <;> rfl
@[simp] theorem State.buildTables_expTab : (s.buildTables).expTab = if tablesFixed s.cfg then s.expTab else builtExp s.cfg := by unfold State.buildTables; split <;> rfl
@[simp] theorem State.buildTables_logTab : (s.buildTables).logTab = if tablesFixed s.cfg then s.logTab else builtLog s.cfg := by unfold State.buildTables; split <;> rfl
@[simp] theorem State.buildTables_pending : (s.buildTables).pending = s.pending := by unfold State.buildTables; split <;> rfl
@[simp] theorem State.buildTables_initialising : (s.buildTables).initialising = s.initialising := by unfold State.buildTables; split <;> rfl
@[simp] theorem State.buildTables_resetIn : (s.buildTables).resetIn = s.resetIn := by unfold State.buildTables; split <;> rfl
@[simp] theorem State.buildTables_delay : (s.buildTables).delay = s.delay := by unfold State.buildTables; split <;> rfl
@[simp] theorem State.buildTables_delays : (s.buildTables).delays = s.delays := by unfold State.buildTables; split <;> rfl
@[simp] theorem State.buildTables_host : (s.buildTables).host = s.host := by unfold State.buildTables; split <;> rfl
@[simp] theorem State.buildTables_hostLog : (s.buildTables).hostLog = s.hostLog := by unfold State.buildTables; split <;> rfl

/-! ### endInit -/

@[simp] theorem State.endInit_cfg : (s.endInit).cfg = s.cfg := by simp [State.endInit]
@[simp] theorem State.endInit_busy : (s.endInit).busy = false := by simp [State.endInit]
@[simp] theorem State.endInit_done : (s.endInit).done = s.done := by simp [State.endInit]
@[simp] theorem State.endInit_ovr : (s.endInit).ovr = s.ovr := by simp [State.endInit]
@[simp] theorem State.endInit_err : (s.endInit).err = s.err := by simp [State.endInit]
@[simp] theorem State.endInit_errInfo : (s.endInit).errInfo = s.errInfo := by simp [State.endInit]
@[simp] theorem State.endInit_res : (s.endInit).res = s.res := by simp [State.endInit]
@[simp] theorem State.endInit_coef : (s.endInit).coef = [] := by simp [State.endInit]
@[simp] theorem State.endInit_px : (s.endInit).px = [] := by simp [State.endInit]
@[simp] theorem State.endInit_py : (s.endInit).py = [] := by simp [State.endInit]
@[simp] theorem State.endInit_expTab : (s.endInit).expTab = if tablesFixed s.cfg then s.expTab else builtExp s.cfg := State.buildTables_expTab s.clearArrays
@[simp] theorem State.endInit_logTab : (s.endInit).logTab = if tablesFixed s.cfg then s.logTab else builtLog s.cfg := State.buildTables_logTab s.clearArrays
@[simp] theorem State.endInit_pending : (s.endInit).pending = s.pending := by simp [State.endInit]
@[simp] theorem State.endInit_initialising : (s.endInit).initialising = false := by simp [State.endInit]
@[simp] theorem State.endInit_resetIn : (s.endInit).resetIn = s.resetIn := by simp [State.endInit]
@[simp] theorem State.endInit_delay : (s.endInit).delay = s.delay := by simp [State.endInit]
@[simp] theorem State.endInit_delays : (s.endInit).delays = s.delays := by simp [State.endInit]
@[simp] theorem State.endInit_host : (s.endInit).host = s.host := by simp [State.endInit]
@[simp] theorem State.endInit_hostLog : (s.endInit).hostLog = s.hostLog := by simp [State.endInit]

/-! ### tick -/

@[simp] theorem State.tick_cfg : (s.tick).cfg = s.cfg := rfl
@[simp] theorem State.tick_busy : (s.tick).busy = s.busy := rfl
@[simp] theorem State.tick_done : (s.tick).done = s.done := rfl
@[simp] theorem State.tick_ovr : (s.tick).ovr = s.ovr := rfl
@[simp] theorem State.tick_err : (s.tick).err = s.err := rfl
@[simp] theorem State.tick_errInfo : (s.tick).errInfo = s.errInfo := rfl
@[simp] theorem State.tick_res : (s.tick).res = s.res := rfl
@[simp] theorem State.tick_coef : (s.tick).coef = s.coef := rfl
@[simp] theorem State.tick_px : (s.tick).px = s.px := rfl
@[simp] theorem State.tick_py : (s.tick).py = s.py := rfl
@[simp] theorem State.tick_expTab : (s.tick).expTab = s.expTab := rfl
@[simp] theorem State.tick_logTab : (s.tick).logTab = s.logTab := rfl
@[simp] theorem State.tick_pending : (s.tick).pending = s.pending := rfl
@[simp] theorem State.tick_initialising : (s.tick).initialising = s.initialising := rfl
@[simp] theorem State.tick_resetIn : (s.tick).resetIn = s.resetIn := rfl
@[simp] theorem State.tick_delay : (s.tick).delay = s.delay - 1 := rfl
@[simp] theorem State.tick_delays : (s.tick).delays = s.delays := rfl
@[simp] theorem State.tick_host : (s.tick).host = s.host := rfl
@[simp] theorem State.tick_hostLog : (s.tick).hostLog = s.hostLog := rfl

/-! ### record -/

@[simp] theorem State.record_cfg (name : Nat) (w : Word) : (s.record name w).cfg = s.cfg := rfl
@[simp] theorem State.record_busy (name : Nat) (w : Word) : (s.record name w).busy = s.busy := rfl
@[simp] theorem State.record_done (name : Nat) (w : Word) : (s.record name w).done = s.done := rfl
@[simp] theorem State.record_ovr (name : Nat) (w : Word) : (s.record name w).ovr = s.ovr := rfl
@[simp] theorem State.record_err (name : Nat) (w : Word) : (s.record name w).err = s.err := rfl
@[simp] theorem State.record_errInfo (name : Nat) (w : Word) : (s.record name w).errInfo = s.errInfo := rfl
@[simp] theorem State.record_res (name : Nat) (w : Word) : (s.record name w).res = s.res := rfl
@[simp] theorem State.record_coef (name : Nat) (w : Word) : (s.record name w).coef = s.coef := rfl
@[simp] theorem State.record_px (name : Nat) (w : Word) : (s.record name w).px = s.px := rfl
@[simp] theorem State.record_py (name : Nat) (w : Word) : (s.record name w).py = s.py := rfl
@[simp] theorem State.record_expTab (name : Nat) (w : Word) : (s.record name w).expTab = s.expTab := rfl
@[simp] theorem State.record_logTab (name : Nat) (w : Word) : (s.record name w).logTab = s.logTab := rfl
@[simp] theorem State.record_pending (name : Nat) (w : Word) : (s.record name w).pending = s.pending := rfl
@[simp] theorem State.record_initialising (name : Nat) (w : Word) : (s.record name w).initialising = s.initialising := rfl
@[simp] theorem State.record_resetIn (name : Nat) (w : Word) : (s.record name w).resetIn = s.resetIn := rfl
@[simp] theorem State.record_delay (name : Nat) (w : Word) : (s.record name w).delay = s.delay := rfl
@[simp] theorem State.record_delays (name : Nat) (w : Word) : (s.record name w).delays = s.delays := rfl
@[simp] theorem State.record_host (name : Nat) (w : Word) : (s.record name w).host = s.host := rfl
@[simp] theorem State.record_hostLog (name : Nat) (w : Word) : (s.record name w).hostLog = (name, w) :: s.hostLog := rfl

/-! ### pushOp -/

@[simp] theorem State.pushOp_cfg (op : HostOp) : (s.pushOp op).cfg = s.cfg := rfl
@[simp] theorem State.pushOp_busy (op : HostOp) : (s.pushOp op).busy = s.busy := rfl
@[simp] theorem State.pushOp_done (op : HostOp) : (s.pushOp op).done = s.done := rfl
@[simp] theorem State.pushOp_ovr (op : HostOp) : (s.pushOp op).ovr = s.ovr := rfl
@[simp] theorem State.pushOp_err (op : HostOp) : (s.pushOp op).err = s.err := rfl
@[simp] theorem State.pushOp_errInfo (op : HostOp) : (s.pushOp op).errInfo = s.errInfo := rfl
@[simp] theorem State.pushOp_res (op : HostOp) : (s.pushOp op).res = s.res := rfl
@[simp] theorem State.pushOp_coef (op : HostOp) : (s.pushOp op).coef = s.coef := rfl
@[simp] theorem State.pushOp_px (op : HostOp) : (s.pushOp op).px = s.px := rfl
@[simp] theorem State.pushOp_py (op : HostOp) : (s.pushOp op).py = s.py := rfl
@[simp] theorem State.pushOp_expTab (op : HostOp) : (s.pushOp op).expTab = s.expTab := rfl
@[simp] theorem State.pushOp_logTab (op : HostOp) : (s.pushOp op).logTab = s.logTab := rfl
@[simp] theorem State.pushOp_pending (op : HostOp) : (s.pushOp op).pending = s.pending := rfl
@[simp] theorem State.pushOp_initialising (op : HostOp) : (s.pushOp op).initialising = s.initialising := rfl
@[simp] theorem State.pushOp_resetIn (op : HostOp) : (s.pushOp op).resetIn = s.resetIn := rfl
@[simp] theorem State.pushOp_delay (op : HostOp) : (s.pushOp op).delay = s.delay := rfl
@[simp] theorem State.pushOp_delays (op : HostOp) : (s.pushOp op).delays = s.delays := rfl
@[simp] theorem State.pushOp_host (op : HostOp) : (s.pushOp op).host = op :: s.host := rfl
@[simp] theorem State.pushOp_hostLog (op : HostOp) : (s.pushOp op).hostLog = s.hostLog := rfl

/-! ### setHost -/

@[simp] theorem State.setHost_cfg (ops : List HostOp) : (s.setHost ops).cfg = s.cfg := rfl
@[simp] theorem State.setHost_busy (ops : List HostOp) : (s.setHost ops).busy = s.busy := rfl
@[simp] theorem State.setHost_done (ops : List HostOp) : (s.setHost ops).done = s.done := rfl
@[simp] theorem State.setHost_ovr (ops : List HostOp) : (s.setHost ops).ovr = s.ovr := rfl
@[simp] theorem State.setHost_err (ops : List HostOp) : (s.setHost ops).err = s.err := rfl
@[simp] theorem State.setHost_errInfo (ops : List HostOp) : (s.setHost ops).errInfo = s.errInfo := rfl
@[simp] theorem State.setHost_res (ops : List HostOp) : (s.setHost ops).res = s.res := rfl
@[simp] theorem State.setHost_coef (ops : List HostOp) : (s.setHost ops).coef = s.coef := rfl
@[simp] theorem State.setHost_px (ops : List HostOp) : (s.setHost ops).px = s.px := rfl
@[simp] theorem State.setHost_py (ops : List HostOp) : (s.setHost ops).py = s.py := rfl
@[simp] theorem State.setHost_expTab (ops : List HostOp) : (s.setHost ops).expTab = s.expTab := rfl
@[simp] theorem State.setHost_logTab (ops : List HostOp) : (s.setHost ops).logTab = s.logTab := rfl
@[simp] theorem State.setHost_pending (ops : List HostOp) : (s.setHost ops).pending = s.pending := rfl
@[simp] theorem State.setHost_initialising (ops : List HostOp) : (s.setHost ops).initialising = s.initialising := rfl
@[simp] theorem State.setHost_resetIn (ops : List HostOp) : (s.setHost ops).resetIn = s.resetIn := rfl
@[simp] theorem State.setHost_delay (ops : List HostOp) : (s.setHost ops).delay = s.delay := rfl
@[simp] theorem State.setHost_delays (ops : List HostOp) : (s.setHost ops).delays = s.delays := rfl
@[simp] theorem State.setHost_host (ops : List HostOp) : (s.setHost ops).host = ops := rfl
@[simp] theorem State.setHost_hostLog (ops : List HostOp) : (s.setHost ops).hostLog = s.hostLog := rfl

/-! ### Writes of registers -/

@[simp] theorem State.writeCmd_cfg (w : Word) : (s.writeCmd w).cfg = s.cfg := by unfold State.writeCmd; split <;> simp
@[simp] theorem State.writeCmd_err (w : Word) : (s.writeCmd w).err = s.err := by unfold State.writeCmd; split <;> simp
@[simp] theorem State.writeCmd_errInfo (w : Word) : (s.writeCmd w).errInfo = s.errInfo := by unfold State.writeCmd; split <;> simp
@[simp] theorem State.writeCmd_res (w : Word) : (s.writeCmd w).res = s.res := by unfold State.writeCmd; split <;> simp
@[simp] theorem State.writeCmd_coef (w : Word) : (s.writeCmd w).coef = s.coef := by unfold State.writeCmd; split <;> simp
@[simp] theorem State.writeCmd_px (w : Word) : (s.writeCmd w).px = s.px := by unfold State.writeCmd; split <;> simp
@[simp] theorem State.writeCmd_py (w : Word) : (s.writeCmd w).py = s.py := by unfold State.writeCmd; split <;> simp
@[simp] theorem State.writeCmd_expTab (w : Word) : (s.writeCmd w).expTab = s.expTab := by unfold State.writeCmd; split <;> simp
@[simp] theorem State.writeCmd_logTab (w : Word) : (s.writeCmd w).logTab = s.logTab := by unfold State.writeCmd; split <;> simp
@[simp] theorem State.writeCmd_initialising (w : Word) : (s.writeCmd w).initialising = s.initialising := by unfold State.writeCmd; split <;> simp
@[simp] theorem State.writeCmd_resetIn (w : Word) : (s.writeCmd w).resetIn = s.resetIn := by unfold State.writeCmd; split <;> simp
@[simp] theorem State.writeCmd_host (w : Word) : (s.writeCmd w).host = s.host := by unfold State.writeCmd; split <;> simp
@[simp] theorem State.writeCmd_hostLog (w : Word) : (s.writeCmd w).hostLog = s.hostLog := by unfold State.writeCmd; split <;> simp

@[simp] theorem State.writeCtrl_cfg (w : Word) : (s.writeCtrl w).cfg = s.cfg := by unfold State.writeCtrl; split <;> simp
@[simp] theorem State.writeCtrl_busy (w : Word) : (s.writeCtrl w).busy = s.busy := by unfold State.writeCtrl; split <;> simp
@[simp] theorem State.writeCtrl_done (w : Word) : (s.writeCtrl w).done = s.done := by unfold State.writeCtrl; split <;> simp
@[simp] theorem State.writeCtrl_res (w : Word) : (s.writeCtrl w).res = s.res := by unfold State.writeCtrl; split <;> simp
@[simp] theorem State.writeCtrl_coef (w : Word) : (s.writeCtrl w).coef = s.coef := by unfold State.writeCtrl; split <;> simp
@[simp] theorem State.writeCtrl_px (w : Word) : (s.writeCtrl w).px = s.px := by unfold State.writeCtrl; split <;> simp
@[simp] theorem State.writeCtrl_py (w : Word) : (s.writeCtrl w).py = s.py := by unfold State.writeCtrl; split <;> simp
@[simp] theorem State.writeCtrl_expTab (w : Word) : (s.writeCtrl w).expTab = s.expTab := by unfold State.writeCtrl; split <;> simp
@[simp] theorem State.writeCtrl_logTab (w : Word) : (s.writeCtrl w).logTab = s.logTab := by unfold State.writeCtrl; split <;> simp
@[simp] theorem State.writeCtrl_pending (w : Word) : (s.writeCtrl w).pending = s.pending := by unfold State.writeCtrl; split <;> simp
@[simp] theorem State.writeCtrl_initialising (w : Word) : (s.writeCtrl w).initialising = s.initialising := by unfold State.writeCtrl; split <;> simp
@[simp] theorem State.writeCtrl_resetIn (w : Word) : (s.writeCtrl w).resetIn = s.resetIn := by unfold State.writeCtrl; split <;> simp
@[simp] theorem State.writeCtrl_delay (w : Word) : (s.writeCtrl w).delay = s.delay := by unfold State.writeCtrl; split <;> simp
@[simp] theorem State.writeCtrl_delays (w : Word) : (s.writeCtrl w).delays = s.delays := by unfold State.writeCtrl; split <;> simp
@[simp] theorem State.writeCtrl_host (w : Word) : (s.writeCtrl w).host = s.host := by unfold State.writeCtrl; split <;> simp
@[simp] theorem State.writeCtrl_hostLog (w : Word) : (s.writeCtrl w).hostLog = s.hostLog := by unfold State.writeCtrl; split <;> simp

@[simp] theorem State.writeReg_cfg (r : Reg) (w : Word) : (s.writeReg r w).cfg = s.cfg := by cases r <;> simp [State.writeReg]
@[simp] theorem State.writeReg_res (r : Reg) (w : Word) : (s.writeReg r w).res = s.res := by cases r <;> simp [State.writeReg]
@[simp] theorem State.writeReg_coef (r : Reg) (w : Word) : (s.writeReg r w).coef = s.coef := by cases r <;> simp [State.writeReg]
@[simp] theorem State.writeReg_px (r : Reg) (w : Word) : (s.writeReg r w).px = s.px := by cases r <;> simp [State.writeReg]
@[simp] theorem State.writeReg_py (r : Reg) (w : Word) : (s.writeReg r w).py = s.py := by cases r <;> simp [State.writeReg]
@[simp] theorem State.writeReg_expTab (r : Reg) (w : Word) : (s.writeReg r w).expTab = s.expTab := by cases r <;> simp [State.writeReg]
@[simp] theorem State.writeReg_logTab (r : Reg) (w : Word) : (s.writeReg r w).logTab = s.logTab := by cases r <;> simp [State.writeReg]
@[simp] theorem State.writeReg_initialising (r : Reg) (w : Word) : (s.writeReg r w).initialising = s.initialising := by cases r <;> simp [State.writeReg]
@[simp] theorem State.writeReg_resetIn (r : Reg) (w : Word) : (s.writeReg r w).resetIn = s.resetIn := by cases r <;> simp [State.writeReg]
@[simp] theorem State.writeReg_host (r : Reg) (w : Word) : (s.writeReg r w).host = s.host := by cases r <;> simp [State.writeReg]
@[simp] theorem State.writeReg_hostLog (r : Reg) (w : Word) : (s.writeReg r w).hostLog = s.hostLog := by cases r <;> simp [State.writeReg]

end Sys2Proof.Machine
end

