-- ==== Sys2Proof/Laws/Step.lean ====
section
/-! SUPPORT. What a command, an access and a step can do, said once: the inversion lemmas that later
proofs cite instead of unfolding `exec` and `step`. -/

namespace Sys2Proof.Machine

/-! ## Commands -/

/-- Every end a command can have: an error record and nothing else, or success after its writes. -/
inductive ExecCase (s : State) : State → Prop where
  | raised (e : ErrKind) (info : Byte) : ExecCase s (s.raise e info)
  | nothing : ExecCase s s.succeed
  | result (v : Byte) : ExecCase s (s.setRes v).succeed
  | coefficient (i v : Byte) : ExecCase s (s.setCoef i v).succeed
  | point (i x y : Byte) : ExecCase s (s.setPoint i x y).succeed
  | cleared : ExecCase s (s.clearArrays.setRes 0x00#8).succeed

/-- A command always ends, in one of these ways. -/
theorem exec_cases (i : Instr) (s : State) : ∃ t, exec i s = .next t ∧ ExecCase s t := by
  cases i with
  | nop => exact ⟨_, rfl, .nothing⟩
  | gfAdd a b => exact ⟨_, rfl, .result _⟩
  | gfMul a b => exact ⟨_, rfl, .result _⟩
  | gfInv a =>
    simp only [exec, execGfInv]
    split
    · exact ⟨_, rfl, .raised _ _⟩
    · exact ⟨_, rfl, .result _⟩
  | gfDiv a b =>
    simp only [exec, execGfDiv]
    split
    · exact ⟨_, rfl, .raised _ _⟩
    · exact ⟨_, rfl, .result _⟩
  | coefWr i v => exact ⟨_, rfl, .coefficient _ _⟩
  | polyEval x n =>
    simp only [exec, execPolyEval]
    split
    · exact ⟨_, rfl, .raised _ _⟩
    split
    · exact ⟨_, rfl, .raised _ _⟩
    · exact ⟨_, rfl, .result _⟩
  | ptWr i x y => exact ⟨_, rfl, .point _ _ _⟩
  | interp0 k =>
    simp only [exec, execInterp0]
    split
    · exact ⟨_, rfl, .raised _ _⟩
    split
    · exact ⟨_, rfl, .raised _ _⟩
    split
    · exact ⟨_, rfl, .raised _ _⟩
    · exact ⟨_, rfl, .result _⟩
  | zeroize => exact ⟨_, rfl, .cleared⟩

/-- What a command answered is one of these ends. -/
theorem exec_next {i : Instr} {s t : State} (h : exec i s = .next t) : ExecCase s t := by
  obtain ⟨u, hu, hc⟩ := exec_cases i s
  rw [hu] at h
  cases h
  exact hc

/-- The completion of a word, legal or not, is one of these ends. -/
theorem completeWord_cases (w : Word) (s : State) : ∃ t, completeWord w s = .next t ∧ ExecCase s t := by
  unfold completeWord
  split
  · exact exec_cases _ s
  · exact ⟨_, rfl, .raised _ _⟩

/-! ## Accesses -/

/-- A bus read goes on with the word of the register it reaches, or is refused. -/
theorem busRead_next {s t : State} {acc : Access} {cont : Word → Host.Outcome State Fault Refusal}
    (h : busRead s acc cont = .next t) : ∃ r, s.reach acc = .ok r ∧ cont (s.readReg r) = .next t := by
  unfold busRead at h
  split at h
  · exact ⟨_, ‹_›, h⟩
  · cases h

/-- A bus write writes the register it reaches, or is refused. -/
theorem busWrite_next {s t : State} {acc : Access} {w : Word} (h : busWrite s acc w = .next t) :
    ∃ r, s.reach acc = .ok r ∧ t = s.writeReg r w := by
  unfold busWrite at h
  split at h
  · exact ⟨_, ‹_›, by cases h; rfl⟩
  · cases h

/-- R15: each register lies at its own offset. -/
theorem regAt_regOffset (r : Reg) : regAt (regOffset r) = some r := by cases r <;> rfl

theorem regOffset_lt (r : Reg) : regOffset r < 32 := by cases r <;> decide

/-- The whole-word access to a register reaches it, whatever BASE is. -/
@[simp] theorem accessReg_regAccess (cfg : Config) (r : Reg) : accessReg cfg (regAccess cfg r) = .ok r := by
  have := regOffset_lt r
  unfold accessReg regAccess
  simp only [ne_eq, not_true, if_false, Nat.add_sub_cancel_left, regAt_regOffset]
  rw [if_neg (by omega)]

theorem reach_regAccess {s : State} (h : s.resetIn = false) (r : Reg) : s.reach (regAccess s.cfg r) = .ok r := by
  simp [State.reach, h]

/-- No access reaches anything while reset is asserted. -/
theorem reach_asserted {s : State} (h : s.resetIn = true) (acc : Access) :
    s.reach acc = .error .accessDuringReset := by
  simp [State.reach, h]

/-- Only the whole-word access at a register's address reaches it. -/
theorem access_of_accessReg {cfg : Config} {acc : Access} {r : Reg} (h : accessReg cfg acc = .ok r) :
    acc = regAccess cfg r := by
  unfold accessReg at h
  split at h
  · cases h
  split at h
  · cases h
  split at h
  · rename_i hout hb _ q hq
    cases h
    have hoff : acc.addr - cfg.base = regOffset r := by
      unfold regAt at hq
      repeat' split at hq
      all_goals first
        | (cases hq; assumption)
        | cases hq
    obtain ⟨addr, bytes⟩ := acc
    simp only [regAccess, Access.mk.injEq] at *
    omega
  · cases h

/-- What a register reads as does not depend on the turn or on the host's list. -/
@[simp] theorem readReg_tick_setHost (s : State) (ops : List HostOp) (r : Reg) :
    (s.tick.setHost ops).readReg r = s.readReg r := by cases r <;> rfl

@[simp] theorem reach_tick_setHost (s : State) (ops : List HostOp) (acc : Access) :
    (s.tick.setHost ops).reach acc = s.reach acc := rfl

/-- No register is reached while reset is asserted. -/
theorem reach_released {s : State} {acc : Access} {r : Reg} (h : s.reach acc = .ok r) : s.resetIn = false := by
  unfold State.reach at h
  split at h
  · cases h
  · rename_i hr; simpa using hr

/-! ## Steps -/

/-- Every step from `s` that answers a next state. -/
inductive StepCase (s : State) : State → Prop where
  /-- The initialisation ends. -/
  | initEnds (hi : s.initialising = true) (hd : s.delay = 0) : StepCase s s.endInit
  /-- A pending word completes. -/
  | completes (w : Word) (t : State) (hr : s.Ready w) (ht : completeWord w s = .next t) (hc : ExecCase s t) :
      StepCase s t
  /-- Nothing is asked of the core. -/
  | passes (hh : s.host = []) (hw : s.working = false ∨ 0 < s.delay) : StepCase s s.tick
  /-- The host reads, and goes on with or without a record, maybe with an operation put in front. -/
  | reads (op : HostOp) (ops ops' : List HostOp) (log : List (Nat × Word)) (hn : s.HostNext op ops)
      (hr : s.resetIn = false) (ho : op ≠ .assertReset ∧ op ≠ .releaseReset)
      (hops : ops' = ops ∨ ops' = .wait :: ops ∨ ops' = .write (regAccess s.cfg .ctrl) 0x00000001#32 :: ops) :
      StepCase s { s.tick with host := ops', hostLog := log }
  /-- The host writes a register. -/
  | writes (acc : Access) (w : Word) (ops : List HostOp) (r : Reg) (hn : s.HostNext (.write acc w) ops)
      (ha : s.reach acc = .ok r) : StepCase s ((s.tick.setHost ops).writeReg r w)
  /-- The reset input is asserted. -/
  | asserts (ops : List HostOp) (hn : s.HostNext .assertReset ops) : StepCase s (s.tick.setHost ops).assertReset
  /-- The reset input is released. -/
  | releases (ops : List HostOp) (hn : s.HostNext .releaseReset ops) : StepCase s (s.tick.setHost ops).releaseReset

theorem hostTurn_cases {s t : State} {op : HostOp} {ops : List HostOp} (hn : s.HostNext op ops)
    (h : hostTurn op (s.tick.setHost ops) = .next t) : StepCase s t := by
  cases op with
  | read acc name =>
    simp only [hostTurn] at h
    obtain ⟨r, hr, hc⟩ := busRead_next h
    cases hc
    exact .reads _ ops ops _ hn (reach_released hr) (by simp) (.inl rfl)
  | write acc w =>
    simp only [hostTurn] at h
    obtain ⟨r, hr, rfl⟩ := busWrite_next h
    exact .writes acc w ops r hn hr
  | wait =>
    simp only [hostTurn] at h
    obtain ⟨r, hr, hc⟩ := busRead_next h
    cases hc
    have := reach_released hr
    split
    · exact .reads _ ops (.wait :: ops) s.hostLog hn this (by simp) (.inr (.inl rfl))
    · exact .reads _ ops ops s.hostLog hn this (by simp) (.inl rfl)
  | check =>
    simp only [hostTurn] at h
    obtain ⟨r, hr, hc⟩ := busRead_next h
    split at hc
    · cases hc
      exact .reads _ ops ops s.hostLog hn (reach_released hr) (by simp) (.inl rfl)
    · cases hc
  | rd name =>
    simp only [hostTurn] at h
    obtain ⟨r, hr, hc⟩ := busRead_next h
    cases hc
    exact .reads _ ops ops _ hn (reach_released hr) (by simp) (.inl rfl)
  | bootClear =>
    simp only [hostTurn] at h
    obtain ⟨r, hr, hc⟩ := busRead_next h
    cases hc
    have := reach_released hr
    split
    · exact .reads _ ops _ s.hostLog hn this (by simp) (.inr (.inr rfl))
    · exact .reads _ ops ops s.hostLog hn this (by simp) (.inl rfl)
  | bootInfo poly =>
    simp only [hostTurn] at h
    obtain ⟨r, hr, hc⟩ := busRead_next h
    split at hc
    · cases hc
      exact .reads _ ops ops s.hostLog hn (reach_released hr) (by simp) (.inl rfl)
    · cases hc
  | assertReset => cases h; exact .asserts ops hn
  | releaseReset => cases h; exact .releases ops hn

/-- The cases of a step. -/
theorem step_cases {s t : State} (h : step s = .next t) : StepCase s t := by
  unfold step turn at h
  split at h
  · rename_i hw
    unfold coreTurn at h
    split at h
    · rename_i hi; cases h; exact .initEnds hi hw.2
    · rename_i hi
      split at h
      · rename_i w hp
        have hr : s.Ready w := ⟨hp, by simpa using hi, hw.2⟩
        obtain ⟨u, hu, hc⟩ := completeWord_cases w s
        rw [hu] at h
        cases h
        exact .completes w _ hr hu hc
      · rename_i hp
        simp [State.working, hp, hi] at hw
  · rename_i hw
    have ht : s.working = false ∨ 0 < s.delay := by
      by_cases hwk : s.working = true
      · exact .inr (Nat.pos_of_ne_zero fun h0 => hw ⟨hwk, h0⟩)
      · exact .inl (by simpa using hwk)
    split at h
    · rename_i hh; cases h; exact .passes hh ht
    · rename_i op ops hh; exact hostTurn_cases ⟨hh, ht⟩ h

/-! ## Runs -/

@[simp] theorem runSteps_zero (s : State) : runSteps 0 s = .next s := rfl

/-- A run of k + 1 steps is a step and, where that answers a next state, a run of k. -/
theorem runSteps_succ (k : Nat) (s : State) :
    runSteps (k + 1) s = match step s with
      | .next t => runSteps k t
      | .fault r => .fault r
      | .refused r => .refused r := by
  have general : ∀ (M : Host.Core) (x : M.State) (o : Host.Outcome M.State M.Fault M.Refusal), M.step x = o →
      M.run (k + 1) x = match o with
        | .next t => M.run k t
        | .fault r => .fault r
        | .refused r => .refused r := by
    rintro M x _ rfl
    cases h : M.step x <;> simp [Host.Core.run, h]
  have := general core s (step s) rfl
  cases hs : step s with
  | next t => rw [hs] at this; exact this
  | fault r => rw [hs] at this; exact this
  | refused r => rw [hs] at this; exact this

theorem runSteps_next {k : Nat} {s t : State} (h : step s = .next t) : runSteps (k + 1) s = runSteps k t := by
  rw [runSteps_succ, h]

/-! ## Whose turn it is -/

/-- A ready command's step is its completion. -/
theorem step_ready {s : State} {w : Word} (h : s.Ready w) : step s = completeWord w s := by
  unfold step turn coreTurn
  simp [State.working, h.pending, h.started, h.due]

/-- The initialisation's last step. -/
theorem step_initEnds {s : State} (hi : s.initialising = true) (hd : s.delay = 0) : step s = .next s.endInit := by
  unfold step turn coreTurn
  simp [State.working, hi, hd]

/-- The host's turn runs its next operation. -/
theorem step_host {s : State} {op : HostOp} {ops : List HostOp} (h : s.HostNext op ops) :
    step s = hostTurn op (s.tick.setHost ops) := by
  unfold step turn
  have : ¬ (s.working = true ∧ s.delay = 0) := by
    rintro ⟨h1, h2⟩
    rcases h.turn with h3 | h3
    · simp [h3] at h1
    · omega
  rw [if_neg this, h.host]

end Sys2Proof.Machine
end

