-- ==== Sys2Proof/Laws/HostProgram.lean ====
section
/-! SUPPORT. Host programs: joining the accesses of lines, and the hosts that cannot stop. -/

namespace Sys2Proof.Machine

/-! ## Expansion -/

/-- A program is none exactly when one of its lines is. -/
theorem joinOps_eq_none {lines : List (Option (List HostOp))} : joinOps lines = none ↔ none ∈ lines := by
  induction lines with
  | nil => simp [joinOps]
  | cons o rest ih => cases o <;> simp [joinOps, ih]

/-- Lines that all expand give their accesses one after the other. -/
theorem joinOps_map_some {α : Type} (f : α → Option (List HostOp)) (g : α → List HostOp) {lines : List α}
    (h : ∀ l ∈ lines, f l = some (g l)) : joinOps (lines.map f) = some (lines.flatMap g) := by
  induction lines with
  | nil => rfl
  | cons l rest ih =>
    rw [List.map_cons, h l (by simp), joinOps, ih fun l hl => h l (by simp [hl])]
    rfl

@[simp] theorem coefLoadLines_length (k : Nat) (cs : List Nat) : (coefLoadLines k cs).length = cs.length := by
  induction cs generalizing k with
  | nil => rfl
  | cons c cs ih => simp [coefLoadLines, ih]

@[simp] theorem ptLoadLines_length (k : Nat) (ps : List (Nat × Nat)) : (ptLoadLines k ps).length = ps.length := by
  induction ps generalizing k with
  | nil => rfl
  | cons p ps ih => simp [ptLoadLines, ih]

/-! ## Hosts that cannot stop -/

/-- An operation that goes on, done while reset is released, gives a next state in which the core's
parameters and the reset input are as before and every operation still to do was to do already or goes
on too. -/
theorem hostTurn_goesOn {s : State} {op : HostOp} (hr : s.resetIn = false) (ho : op.goesOn s.cfg = true) :
    ∃ t, hostTurn op s = .next t ∧ t.cfg = s.cfg ∧ t.resetIn = false ∧
      ∀ o ∈ t.host, o ∈ s.host ∨ o.goesOn s.cfg = true := by
  have reach : ∀ {acc : Access}, (accessReg s.cfg acc).isOk = true → ∃ r, s.reach acc = .ok r := by
    intro acc h
    cases ha : accessReg s.cfg acc with
    | ok r => exact ⟨r, by simp [State.reach, hr, ha]⟩
    | error e => rw [ha] at h; cases h
  cases op with
  | read acc name =>
    obtain ⟨r, h⟩ := reach ho
    exact ⟨s.record name (s.readReg r), by simp only [hostTurn, busRead, h], rfl, hr, fun o h => .inl h⟩
  | write acc w =>
    obtain ⟨r, h⟩ := reach ho
    exact ⟨s.writeReg r w, by simp only [hostTurn, busWrite, h], by simp, by simp [hr], fun o h => .inl (by simpa using h)⟩
  | wait =>
    refine ⟨_, by simp only [hostTurn, busRead, reach_regAccess hr]; rfl, ?_, ?_, ?_⟩
    · split <;> rfl
    · split <;> exact hr
    · intro o h
      split at h
      · rcases List.mem_cons.mp h with rfl | h
        · exact .inr rfl
        · exact .inl h
      · exact .inl h
  | check => cases ho
  | rd name =>
    exact ⟨s.record name ((fieldC (s.readReg .result)).setWidth 32), by simp only [hostTurn, busRead, reach_regAccess hr], rfl, hr, fun o h => .inl h⟩
  | bootClear =>
    refine ⟨_, by simp only [hostTurn, busRead, reach_regAccess hr]; rfl, ?_, ?_, ?_⟩
    · split <;> rfl
    · split <;> exact hr
    · intro o h
      split at h
      · rcases List.mem_cons.mp h with rfl | h
        · exact .inr (by simp [HostOp.goesOn, Except.isOk, Except.toBool])
        · exact .inl h
      · exact .inl h
  | bootInfo poly => cases ho
  | assertReset => cases ho
  | releaseReset => exact ⟨_, rfl, rfl, rfl, fun o h => .inl h⟩

/-- A host that cannot stop is still one after a step in which the core does not move. -/
theorem step_hostGoesOn {s : State} (h : s.HostGoesOn) (hw : s.working = false ∨ 0 < s.delay) :
    ∃ t, step s = .next t ∧ t.HostGoesOn := by
  cases hh : s.host with
  | nil =>
    refine ⟨s.tick, ?_, .inl hh⟩
    have : ¬ (s.working = true ∧ s.delay = 0) := by
      rintro ⟨h1, h2⟩
      rcases hw with h3 | h3
      · simp [h3] at h1
      · omega
    unfold step turn
    rw [if_neg this, hh]
  | cons op ops =>
    rcases h with h | ⟨hr, hall⟩
    · rw [hh] at h; cases h
    · rw [hh] at hall
      obtain ⟨t, ht, hc, hrt, ho⟩ := hostTurn_goesOn (s := s.tick.setHost ops) (op := op) hr (hall op (by simp))
      refine ⟨t, by rw [step_host ⟨hh, hw⟩, ht], .inr ⟨hrt, fun o hmem => ?_⟩⟩
      rcases ho o hmem with h | h
      · exact hc ▸ hall o (by simp at h; simp [h])
      · exact hc ▸ h

end Sys2Proof.Machine
end

