-- ==== Sys2Proof/Laws/PerInstr.lean ====
section
/-! SUPPORT. Statements made per instruction: the word of a command selects the row of the opcode
table (30_encoding.md R46) that bears the command's mnemonic. -/

namespace Sys2Proof.Laws

/-- R46: the row with the command's mnemonic is in the table and its word selects it. -/
def EncodeSelectsRow.Statement (i : Instr) : Prop :=
  ∃ r ∈ opcodeRows, r.mnemonic = i.mnemonic ∧ r.selects (encode i) = true

/-- A word selects a row when its four fields, masked one by one, are the row's. -/
theorem selects_mk (m : String) (p k : Word) (op a b c : Byte)
    (h : (fieldOp k &&& op = fieldOp p ∧ fieldA k &&& a = fieldA p) ∧
      fieldB k &&& b = fieldB p ∧ fieldC k &&& c = fieldC p) :
    OpcodeRow.selects ⟨m, p, k⟩ (Word.mk op a b c) = true := by
  unfold OpcodeRow.selects
  rw [beq_iff_eq, BitVec.and_comm, ← mk_fields k, ← mk_fields p]
  unfold Word.mk
  rw [BitVec.and_append, BitVec.and_append, BitVec.and_append, h.1.1, h.1.2, h.2.1, h.2.2]

theorem and_zeros (x : Byte) : 0x00#8 &&& x = 0x00#8 := by simp

theorem EncodeSelectsRow.nop : EncodeSelectsRow.Statement .nop :=
  ⟨⟨"NOP", 0x00000000#32, 0xFFFFFFFF#32⟩, by simp [opcodeRows], rfl, by decide⟩

theorem EncodeSelectsRow.gfAdd (a b : Byte) : EncodeSelectsRow.Statement (.gfAdd a b) :=
  ⟨⟨"GF_ADD", 0x01000000#32, 0xFF0000FF#32⟩, by simp [opcodeRows], rfl,
    selects_mk _ _ _ _ _ _ _ ⟨⟨by decide, and_zeros a⟩, and_zeros b, by decide⟩⟩

theorem EncodeSelectsRow.gfMul (a b : Byte) : EncodeSelectsRow.Statement (.gfMul a b) :=
  ⟨⟨"GF_MUL", 0x02000000#32, 0xFF0000FF#32⟩, by simp [opcodeRows], rfl,
    selects_mk _ _ _ _ _ _ _ ⟨⟨by decide, and_zeros a⟩, and_zeros b, by decide⟩⟩

theorem EncodeSelectsRow.gfInv (a : Byte) : EncodeSelectsRow.Statement (.gfInv a) :=
  ⟨⟨"GF_INV", 0x03000000#32, 0xFF00FFFF#32⟩, by simp [opcodeRows], rfl,
    selects_mk _ _ _ _ _ _ _ ⟨⟨by decide, and_zeros a⟩, by decide, by decide⟩⟩

theorem EncodeSelectsRow.gfDiv (a b : Byte) : EncodeSelectsRow.Statement (.gfDiv a b) :=
  ⟨⟨"GF_DIV", 0x04000000#32, 0xFF0000FF#32⟩, by simp [opcodeRows], rfl,
    selects_mk _ _ _ _ _ _ _ ⟨⟨by decide, and_zeros a⟩, and_zeros b, by decide⟩⟩

theorem EncodeSelectsRow.coefWr (i v : Byte) : EncodeSelectsRow.Statement (.coefWr i v) :=
  ⟨⟨"COEF_WR", 0x10000000#32, 0xFF0000FF#32⟩, by simp [opcodeRows], rfl,
    selects_mk _ _ _ _ _ _ _ ⟨⟨by decide, and_zeros i⟩, and_zeros v, by decide⟩⟩

theorem EncodeSelectsRow.polyEval (x n : Byte) : EncodeSelectsRow.Statement (.polyEval x n) :=
  ⟨⟨"POLY_EVAL", 0x11000000#32, 0xFF0000FF#32⟩, by simp [opcodeRows], rfl,
    selects_mk _ _ _ _ _ _ _ ⟨⟨by decide, and_zeros x⟩, and_zeros n, by decide⟩⟩

theorem EncodeSelectsRow.ptWr (i x y : Byte) : EncodeSelectsRow.Statement (.ptWr i x y) :=
  ⟨⟨"PT_WR", 0x20000000#32, 0xFF000000#32⟩, by simp [opcodeRows], rfl,
    selects_mk _ _ _ _ _ _ _ ⟨⟨by decide, and_zeros i⟩, and_zeros x, and_zeros y⟩⟩

theorem EncodeSelectsRow.interp0 (k : Byte) : EncodeSelectsRow.Statement (.interp0 k) :=
  ⟨⟨"INTERP0", 0x21000000#32, 0xFF00FFFF#32⟩, by simp [opcodeRows], rfl,
    selects_mk _ _ _ _ _ _ _ ⟨⟨by decide, and_zeros k⟩, by decide, by decide⟩⟩

theorem EncodeSelectsRow.zeroize : EncodeSelectsRow.Statement .zeroize :=
  ⟨⟨"ZEROIZE", 0x30000000#32, 0xFFFFFFFF#32⟩, by simp [opcodeRows], rfl, by decide⟩

end Sys2Proof.Laws
end

