-- ==== Sys2Proof/Laws/Tables.lean ====
section
/-! SUPPORT. The tables of a LOG_TABLE core are in canonical form. -/

namespace Sys2Proof.Machine

@[simp] theorem gfOrbit_length (p : BitVec 9) (g : Byte) : ∀ n r, (gfOrbit p g n r).length = n := by
  intro n
  induction n with
  | zero => intro r; rfl
  | succ n ih => intro r; simp [gfOrbit, ih]

theorem builtExp_wf (cfg : Config) : Memory.wf (builtExp cfg) = true := by
  unfold builtExp
  split
  · exact Memory.wfFrom_ofBytes _ 0 (by simp [expList])
  · rfl

theorem builtLog_wf (cfg : Config) : Memory.wf (builtLog cfg) = true := by
  unfold builtLog
  split
  · exact Memory.wfFrom_mono (Nat.zero_le 1) (Memory.wfFrom_ofBytes _ 1 (by simp))
  · rfl

/-- Entry n of the powers of `g` is g^n. -/
theorem gfOrbit_getD (p : BitVec 9) (g : Byte) : ∀ (n k m : Nat), k < n →
    (gfOrbit p g n (gfPow p g m)).getD k 0x00#8 = gfPow p g (m + k) := by
  intro n
  induction n with
  | zero => intro k m hk; omega
  | succ n ih =>
    intro k m hk
    cases k with
    | zero => simp [gfOrbit]
    | succ k =>
      simp only [gfOrbit, List.getD_cons_succ]
      rw [show gfMul p (gfPow p g m) g = gfPow p g (m + 1) from rfl, ih k (m + 1) (by omega)]
      congr 1
      omega

end Sys2Proof.Machine
end

