-- ==== Sys2Proof/Tests/Slice0.lean ====
section
/-! SUPPORT. Small tests, their expected values taken from the spec's own vectors (95_test_vectors.md)
or worked out from its rules. The witnesses of the statements stand in Tests/Witnesses.lean. -/

namespace Sys2Proof.Machine.Test

set_option maxRecDepth 100000

/-! ## Helpers -/

/-- 0x11D, bit-serial. -/
def serial11D : Config where
  fieldPoly := 0x11D#9
  mulImpl := .bitSerial
  base := 0x40
  poly_legal := by decide
  gen_legal := by decide
  base_aligned := by decide

/-- 0x11B, bit-serial (95 section 2.6). -/
def serial11B : Config where
  fieldPoly := 0x11B#9
  mulImpl := .bitSerial
  base := 0
  poly_legal := by decide
  gen_legal := by decide
  base_aligned := by decide

/-- A core after its initialisation, nothing asked of it. -/
def idle : State := (State.resetWith serial11D).endInit

/-- The word `w` is pending and due. -/
def due (w : Word) : State := { idle with pending := some w, busy := true }

/-- RES and STATUS of a next state. -/
def resStatus : Host.Outcome State Fault Refusal → Option (Byte × Word)
  | .next s => some (s.res, s.statusWord)
  | .fault _ => none
  | .refused _ => none

/-- STATUS of a next state. -/
def status : Host.Outcome State Fault Refusal → Option Word
  | .next s => some s.statusWord
  | .fault _ => none
  | .refused _ => none

/-- What the host has read, of a next state. -/
def log : Host.Outcome State Fault Refusal → Option (List (Nat × Word))
  | .next s => some s.hostLog
  | .fault _ => none
  | .refused _ => none

/-- The points and coefficients of 95 sections 2.7 and 2.8 in the arrays. -/
def shares : State :=
  { idle with
    coef := [(0, 0xA5#8), (1, 0x11#8), (2, 0xFE#8)]
    px := [(0, 0x02#8), (1, 0x04#8), (2, 0x05#8)]
    py := [(0, 0x58#8), (1, 0xBA#8), (2, 0x55#8)] }

/-- `shares` with the word `w` due. -/
def shares_due (w : Word) : State := { shares with pending := some w, busy := true }

/-- `idle` with the host about to do `ops`. -/
def hosted (ops : List HostOp) : State := { idle with host := ops }

/-! ## Well-formed lines: one ill-formed line for each check (30_encoding.md R51) -/

theorem test_wf_ok : AsmLine.wf ⟨"pt.wr", [0, 1, 0x63]⟩ = true := by decide
theorem test_wf_mnemonic : AsmLine.mnemonicOk ⟨"gf.sub", [1, 2]⟩ = false ∧ AsmLine.wf ⟨"gf.sub", [1, 2]⟩ = false := by decide
theorem test_wf_arity : AsmLine.arityOk ⟨"gf.inv", [1, 2]⟩ = false ∧ AsmLine.wf ⟨"gf.inv", [1, 2]⟩ = false := by decide
theorem test_wf_range : AsmLine.rangeOk ⟨"interp0", [256]⟩ = false ∧ AsmLine.wf ⟨"interp0", [256]⟩ = false := by decide
theorem test_assemble : AsmLine.assemble ⟨"gf.div", [0x53, 0xCA]⟩ = some 0x0453CA00#32 ∧ AsmLine.assemble ⟨"gf.div", [0x53, 256]⟩ = none := by decide

/-- A load whose last index would be 256 is an assembler error (R51, R52), one that ends at 255 is none. -/
theorem test_load_index : ((coefLoadLines 255 [1, 2]).map fun l => l.assemble) = [some 0x10FF0100#32, none] := by decide

/-! ## Decoding: words written out bit by bit from R46 -/

theorem test_decode_nop : decode 0b00000000000000000000000000000000#32 = .ok .nop := by decide
theorem test_decode_gfAdd : decode 0b00000001010100111100101000000000#32 = .ok (.gfAdd 0x53 0xCA) := by decide
theorem test_decode_gfMul : decode 0b00000010010100111100101000000000#32 = .ok (.gfMul 0x53 0xCA) := by decide
theorem test_decode_gfInv : decode 0b00000011010100110000000000000000#32 = .ok (.gfInv 0x53) := by decide
theorem test_decode_gfDiv : decode 0b00000100010100111100101000000000#32 = .ok (.gfDiv 0x53 0xCA) := by decide
theorem test_decode_coefWr : decode 0b00010000000000010010101100000000#32 = .ok (.coefWr 1 0x2B) := by decide
theorem test_decode_polyEval : decode 0b00010001000000110000001000000000#32 = .ok (.polyEval 3 2) := by decide
theorem test_decode_ptWr : decode 0b00100000000000010000001100110101#32 = .ok (.ptWr 1 3 0x35) := by decide
theorem test_decode_interp0 : decode 0b00100001000000100000000000000000#32 = .ok (.interp0 2) := by decide
theorem test_decode_zeroize : decode 0b00110000000000000000000000000000#32 = .ok .zeroize := by decide
theorem test_decode_reserved : decode 0x12000000#32 = .error (.undefinedOpcode 0x12) ∧
    decode 0xFFFFFFFF#32 = .error (.undefinedOpcode 0xFF) := by decide
theorem test_decode_unused : decode 0x00000001#32 = .error (.unusedFieldNonZero 0x00) ∧
    decode 0x30000100#32 = .error (.unusedFieldNonZero 0x30) := by decide
theorem test_decode_bytes : decodeBytes [0x00, 0xCA, 0x53, 0x01] = .ok (.gfAdd 0x53 0xCA) ∧
    decodeBytes [0x00, 0xCA, 0x53] = .error .notOneWord := by decide
theorem test_table_word : decodeTableWord 32 0x20000163 = some (.ptWr 0 1 0x63) ∧ decodeTableWord 32 0x05000000 = none := by decide

/-! ## Commands, one step each, values of 95 sections 2.2 to 2.9 -/

theorem test_nop : resStatus (step { due 0x00000000#32 with res := 0x48#8 }) = some (0x48, 0x00000002) := by decide
theorem test_gfAdd : resStatus (step (due 0x0153CA00#32)) = some (0x99, 0x00000002) := by decide
theorem test_gfMul : resStatus (step (due 0x0253CA00#32)) = some (0x8F, 0x00000002) := by decide
theorem test_gfMul_11B : resStatus (step { due 0x0253CA00#32 with cfg := serial11B }) = some (0x01, 0x00000002) := by decide
theorem test_gfInv : resStatus (step (due 0x03530000#32)) = some (0x8C, 0x00000002) := by decide
theorem test_gfInv_zero : resStatus (step { due 0x03000000#32 with res := 0x53#8 }) = some (0x53, 0x00000340) := by decide
theorem test_gfDiv : resStatus (step (due 0x04CA5300#32)) = some (0xEC, 0x00000002) := by decide
theorem test_gfDiv_zero : resStatus (step (due 0x04000000#32)) = some (0x00, 0x00000440) := by decide
theorem test_coefWr : (match step (shares_due 0x1001D700#32) with | .next t => some t.coef | _ => none) =
    some [(0, 0xA5), (1, 0xD7), (2, 0xFE)] := by decide
theorem test_coefWr_zero : (match step (shares_due 0x10010000#32) with | .next t => some t.coef | _ => none) =
    some [(0, 0xA5), (2, 0xFE)] := by decide
theorem test_polyEval : resStatus (step (shares_due 0x11FF0300#32)) = some (0xD5, 0x00000002) := by decide
theorem test_polyEval_count_first : resStatus (step (shares_due 0x1100FF00#32)) = some (0x00, 0x0000FF20) := by decide
theorem test_ptWr : (match step (shares_due 0x20FFFFFF#32) with | .next t => some (t.px.read 0xFF, t.py.read 0xFF, t.px.read 1) | _ => none) =
    some (0xFF, 0xFF, 0x04) := by decide
theorem test_interp0 : resStatus (step (shares_due 0x21030000#32)) = some (0xA5, 0x00000002) := by decide +kernel
theorem test_interp0_duplicate : resStatus (step { shares_due 0x21040000#32 with
    px := [(0, 0x05#8), (1, 0x06#8), (2, 0x05#8), (3, 0x06#8)] }) = some (0x00, 0x00000270) := by decide
theorem test_zeroize : (match step (shares_due 0x30000000#32) with | .next t => some (t.coef, t.px, t.py, t.statusWord) | _ => none) =
    some ([], [], [], 0x00000002) := by decide
theorem test_illegal : status (step (due 0x0F123456#32)) = some 0x00000F10 ∧ status (step (due 0x21020001#32)) = some 0x00002110 := by decide

/-! ## Channel, window, reset: 95 sections 2.10 and 2.11 -/

theorem test_cmd_accepted : status (step (hosted [.write ⟨0x40, 4⟩ 0x0153CA00#32])) = some 0x00000001 := by decide
theorem test_cmd_refused : status (step { due 0x0153CA00#32 with delay := 1, host := [.write ⟨0x40, 4⟩ 0x0253CA00#32] }) = some 0x00000005 := by decide
theorem test_ovr_kept : resStatus (step { due 0x0153CA00#32 with ovr := true }) = some (0x99, 0x00000006) := by decide
theorem test_ctrl_clr : status (step { hosted [.write ⟨0x4C, 4⟩ 0x00000001#32] with err := 4#4, errInfo := 3#8, ovr := true }) = some 0x00000000 := by decide
theorem test_ctrl_other_bits : status (step { hosted [.write ⟨0x4C, 4⟩ 0xFFFFFFFE#32] with err := 4#4, errInfo := 3#8 }) = some 0x00000340 := by decide
theorem test_info : infoWord Config.recommended = 0x0108021D ∧ infoWord serial11D = 0x0118001D ∧ infoWord serial11B = 0x0118001B := by decide
theorem test_read_result : log (step { hosted [.read ⟨0x48, 4⟩ 7] with res := 0x99#8 }) = some [(7, 0x00000099)] := by decide
theorem test_reset_status : State.reset.statusWord = 0x00000001 ∧ status (step State.reset) = some 0x00000000 := by decide
theorem test_reset_ovr : status (step { State.reset with delay := 1, host := [.write ⟨0, 4⟩ 0x00000000#32] }) = some 0x00000005 := by decide
theorem test_placed_word : resStatus (step (State.reset.withFetchWord 32 0x0253CA00)) = some (0x8F, 0x00000002) := by decide

/-- The table product of R56's own check (95 section 2.12): EXP[(LOG[0x53] + LOG[0xCA]) mod 255]. -/
theorem test_table_product : tableMul [(0x18, 0x8F#8)] [(0x53, 0xCE#8), (0xCA, 0x49#8)] 0x53 0xCA = 0x8F := by decide
/-- The zero test comes before LOG (R56). -/
theorem test_table_zero : tableMul [(0, 0x01#8)] [] 0x00 0x53 = 0x00 := by decide
/-- 95 section 2.12: the first entries of EXP for 0x11D and 0x02. -/
theorem test_exp_table : (gfOrbit 0x11D 0x02 10 0x01) = [0x01, 0x02, 0x04, 0x08, 0x10, 0x20, 0x40, 0x80, 0x1D, 0x3A] := by decide

end Sys2Proof.Machine.Test
end

