-- ==== Sys2Proof/Tests/Witnesses.lean ====
section
/-! SUPPORT. For every statement of Certificates/Slice0/Obligations.lean that has hypotheses, a
theorem `witness_<Name>` with a concrete state and operands that meet all of them together, clause by
clause where a statement has several. A statement without hypotheses has none here. -/

namespace Sys2Proof.Machine.Test

set_option maxRecDepth 100000

/-! ## States that meet the invariant -/

/-- Every state made from these by changing `pending` and BUSY together, or the surroundings, meets
the invariant. -/
theorem inv_of (s : State) (h1 : (s.done = false ∨ s.err = 0#4) ∧ (s.err = 0#4 → s.errInfo = 0x00#8) ∧ s.err.toNat ≤ 7)
    (h2 : s.busy = true → s.err = 0#4 ∧ s.done = false) (h3 : s.busy = s.working)
    (h4 : s.initialising = true → s.pending = none)
    (h5 : (s.coef.wf && s.px.wf && s.py.wf) = true) (h6 : s.cfg = serial11D) (h7 : s.expTab = [] ∧ s.logTab = []) : s.Inv := by
  simp only [Bool.and_eq_true] at h5
  refine ⟨⟨?_, h1.2.1, h1.2.2, fun h => (h2 h).1, fun h => (h2 h).2⟩, ⟨h3, h4⟩,
    ⟨h5.1.1, h5.1.2, h5.2, ?_, ?_⟩, ?_⟩
  · intro hd
    rcases h1.1 with h | h
    · rw [h] at hd; cases hd
    · exact h
  · rw [h7.1]; rfl
  · rw [h7.2]; rfl
  · intro _; rw [h6, h7.1, h7.2]; exact ⟨rfl, rfl⟩

theorem idle_inv : idle.Inv := inv_of _ (by decide) (by decide) (by decide) (by decide) (by decide) rfl ⟨rfl, rfl⟩
theorem shares_inv : shares.Inv := inv_of _ (by decide) (by decide) (by decide) (by decide) (by decide) rfl ⟨rfl, rfl⟩
theorem due_inv (w : Word) : (due w).Inv :=
  inv_of _ ⟨.inr rfl, fun _ => rfl, by simp [due, idle, State.resetWith]⟩ (fun _ => ⟨rfl, rfl⟩) rfl (fun h => by cases h) rfl rfl ⟨rfl, rfl⟩
theorem hosted_inv (ops : List HostOp) : (hosted ops).Inv :=
  inv_of _ ⟨.inr rfl, fun _ => rfl, by simp [hosted, idle, State.resetWith]⟩ (fun h => by cases h) rfl (fun h => by cases h) rfl rfl ⟨rfl, rfl⟩

/-- A core that is still initialising, with a delay. -/
def starting (d : Nat) (ops : List HostOp) : State := { State.resetWith serial11D with delay := d, host := ops }

theorem starting_inv (d : Nat) (ops : List HostOp) : (starting d ops).Inv :=
  inv_of _ ⟨.inr rfl, fun _ => rfl, by simp [starting, State.resetWith]⟩ (fun _ => ⟨rfl, rfl⟩) rfl (fun _ => rfl) rfl rfl ⟨rfl, rfl⟩

/-- A core with the error DIV_ZERO recorded and OVR set. -/
def failed (ops : List HostOp) : State := { hosted ops with err := 4#4, errInfo := 0x03#8, ovr := true }

theorem failed_inv (ops : List HostOp) : (failed ops).Inv :=
  inv_of _ ⟨.inl rfl, fun h => absurd h (by simp [failed]), show (4#4).toNat ≤ 7 by decide⟩ (fun h => by cases h) rfl (fun h => by cases h) rfl rfl ⟨rfl, rfl⟩

theorem due_ready (w : Word) : (due w).Ready w := ⟨rfl, rfl, rfl⟩

/-- A LOG_TABLE core (the recommended parameters) after its initialisation. -/
def tabled : State := State.reset.endInit

theorem tabled_inv : tabled.Inv := by
  refine ⟨⟨by decide, by decide, by decide, by decide, by decide⟩, ⟨by decide, by decide⟩,
    ⟨rfl, rfl, rfl, ?_, ?_⟩, fun _ => ⟨rfl, rfl⟩⟩
  · exact builtExp_wf Config.recommended
  · exact builtLog_wf Config.recommended

/-! ## Encoding and the channel -/

theorem witness_DecodeOfEncodeIsTheCommand : (Instr.ptWr 0xFF#8 0xFF#8 0xFF#8).wf = true := by decide

theorem witness_EncodeOfDecodeIsTheWord : decode 0x20FFFFFF#32 = .ok (.ptWr 0xFF#8 0xFF#8 0xFF#8) := by decide

theorem witness_IllegalWordsFailWithTheirOpcode :
    (decode 0x05000000#32 = .error (.undefinedOpcode 0x05#8) ∧ (0x05000000#32).extractLsb' 24 8 ∉
      [0x00#8, 0x01#8, 0x02#8, 0x03#8, 0x04#8, 0x10#8, 0x11#8, 0x20#8, 0x21#8, 0x30#8]) ∧
    (∃ r ∈ opcodeRows, (0x21020001#32).extractLsb' 24 8 = r.pattern.extractLsb' 24 8 ∧ 0x21020001#32 &&& r.mask ≠ r.pattern) ∧
    idle.accepts = true ∧ (due 0x05000000#32).Ready 0x05000000#32 :=
  ⟨by decide, by decide, by decide, due_ready _⟩

theorem witness_StepRunsTheDecodedCommand :
    ((due 0x0153CA00#32).Ready 0x0153CA00#32 ∧ decode 0x0153CA00#32 = .ok (.gfAdd 0x53#8 0xCA#8)) ∧
    ((due 0x31000000#32).Ready 0x31000000#32 ∧ decode 0x31000000#32 = .error (.undefinedOpcode 0x31#8)) :=
  ⟨⟨due_ready _, by decide⟩, due_ready _, by decide⟩

theorem witness_CmdWriteIsAcceptedOrRefused :
    ((hosted [issueOp serial11D 0#32]).HostNext (.write (regAccess (hosted []).cfg .cmd) 0#32) [] ∧
      idle.resetIn = false ∧ idle.busy = false ∧ idle.err = 0#4 ∧ idle.ovr = false) ∧
    ({ due 0#32 with delay := 1, host := [issueOp serial11D 0#32] } : State).HostNext
      (.write (regAccess (due 0#32).cfg .cmd) 0#32) [] ∧ (due 0#32).busy = true ∧
    ((failed [issueOp serial11D 0#32]).HostNext (.write (regAccess (failed []).cfg .cmd) 0#32) [] ∧
      (failed []).err ≠ 0#4 ∧ (failed []).ovr = true) :=
  ⟨⟨⟨rfl, .inl rfl⟩, rfl, rfl, rfl, rfl⟩, ⟨rfl, .inr (by decide)⟩, rfl, ⟨rfl, .inl rfl⟩, by decide, rfl⟩

/-- A word accepted with a delay of one turn, in which the host reads RESULT. -/
def inFlight (w : Word) : State := { due w with delay := 1, host := [.rd 0] }

theorem inFlight_inv (w : Word) : (inFlight w).Inv :=
  inv_of _ ⟨.inr rfl, fun _ => rfl, show (0#4).toNat ≤ 7 by decide⟩ (fun _ => ⟨rfl, rfl⟩) rfl (fun h => by cases h) rfl rfl ⟨rfl, rfl⟩

/-- Both ends of a completion: success and error. -/
theorem witness_PendingCommandCompletes :
    (inFlight 0x00000000#32).Inv ∧ (inFlight 0x00000000#32).pending = some 0x00000000#32 ∧
    HostOp.assertReset ∉ (inFlight 0x00000000#32).host ∧ (inFlight 0x00000000#32).HostGoesOn ∧
    (∃ u, runSteps (inFlight 0x00000000#32).delay (inFlight 0x00000000#32) = .next u) ∧
    (inFlight 0x03000000#32).Inv ∧ (inFlight 0x03000000#32).pending = some 0x03000000#32 ∧
    (∃ u, runSteps (inFlight 0x03000000#32).delay (inFlight 0x03000000#32) = .next u) ∧
    status (step (due 0x00000000#32)) = some 0x00000002#32 ∧ status (step (due 0x03000000#32)) = some 0x00000340#32 :=
  ⟨inFlight_inv _, rfl, by decide, .inr ⟨rfl, by decide⟩, ⟨_, rfl⟩, inFlight_inv _, rfl, ⟨_, rfl⟩, by decide, by decide⟩

theorem witness_WaitTerminates : (starting 3 [.wait]).Inv ∧ (starting 3 [.wait]).resetIn = false ∧
    (starting 3 [.wait]).host = .wait :: [] := ⟨starting_inv _ _, rfl, rfl⟩

theorem witness_ReadsHaveNoSideEffect :
    (hosted [.read (regAccess serial11D .info) 0]).HostNext (.read (regAccess (hosted []).cfg .info) 0) [] ∧
    ((hosted [.read (regAccess serial11D .status) 0, .read (regAccess serial11D .status) 1]).working = false ∧
      (hosted [.read (regAccess serial11D .status) 0, .read (regAccess serial11D .status) 1]).host =
        .read (regAccess (hosted []).cfg .status) 0 :: .read (regAccess (hosted []).cfg .status) 1 :: []) ∧
    (hosted [.write (regAccess serial11D .rsvd1C) 0#32]).HostNext (.write (regAccess (hosted []).cfg .rsvd1C) 0#32) [] ∧
    (hosted [.write (regAccess serial11D .ctrl) 1#32]).HostNext (.write (regAccess (hosted []).cfg .ctrl) 1#32) [] ∧
    (hosted []).resetIn = false :=
  ⟨⟨rfl, .inl rfl⟩, ⟨rfl, rfl⟩, ⟨rfl, .inl rfl⟩, ⟨rfl, .inl rfl⟩, rfl⟩

/-- The first byte of the window by a narrow access, its last byte, and its last aligned word. -/
theorem witness_OnlyAlignedWordAccessesReachARegister :
    (serial11D.base ≤ 0x40 ∧ (hosted [.read ⟨0x40, 1⟩ 0]).HostNext (.read ⟨0x40, 1⟩ 0) []) ∧
    (0x5F < serial11D.base + 32 ∧ (0x5F - serial11D.base) % 4 ≠ 0 ∧
      (hosted [.write ⟨0x5F, 4⟩ 0#32]).HostNext (.write ⟨0x5F, 4⟩ 0#32) []) ∧
    (serial11D.base ≤ 0x5C ∧ 0x5C < serial11D.base + 32 ∧ (0x5C - serial11D.base) % 4 = 0) ∧ idle.resetIn = false :=
  ⟨⟨by decide, rfl, .inl rfl⟩, ⟨by decide, by decide, rfl, .inl rfl⟩, by decide, rfl⟩

theorem witness_ResultReadMayComeBeforeOrAfterCompletion :
    (hosted [issueOp serial11D (encode (.gfMul 0x53#8 0xCA#8)), .rd 0]).Inv ∧
    (hosted [issueOp serial11D (encode (.gfMul 0x53#8 0xCA#8)), .rd 0]).accepts = true ∧
    (hosted [issueOp serial11D (encode (.gfMul 0x53#8 0xCA#8)), .rd 0]).resetIn = false ∧
    (hosted [issueOp serial11D (encode (.gfMul 0x53#8 0xCA#8)), issueOp serial11D 0#32]).Inv ∧
    (hosted [issueOp serial11D (encode (.gfMul 0x53#8 0xCA#8)), issueOp serial11D 0#32]).accepts = true :=
  ⟨hosted_inv _, rfl, rfl, hosted_inv _, rfl⟩

/-! ## Window and reset -/

theorem witness_InfoAndReservedOffsetsRead :
    (∃ g st, tabled.cfg.mulImpl = .logTable g st ∧ tabled.cfg.fieldPoly = 0x11D#9 ∧ g = 0x02#8) ∧
    idle.cfg.mulImpl = .bitSerial := ⟨⟨_, _, rfl, rfl, rfl⟩, rfl⟩

theorem witness_CtrlClearsTheErrorRecord :
    idle.accepts = true ∧ (failed []).accepts = false ∧ (0x00000001#32).getLsbD 0 = true ∧
      (0xFFFFFFFE#32).getLsbD 0 = false := by decide

/-- A result, ZEROIZE and reset each change RES. -/
theorem witness_ResultChangesOnlyByItsCommands :
    (∃ t, step (due 0x0153CA00#32) = .next t ∧ t.res ≠ (due 0x0153CA00#32).res) ∧
    (∃ t, step { due 0x30000000#32 with res := 0x48#8 } = .next t ∧ t.res ≠ 0x48#8) ∧
    (∃ t, step { hosted [.assertReset] with res := 0x48#8 } = .next t ∧ t.res ≠ 0x48#8) :=
  ⟨⟨_, rfl, by decide⟩, ⟨_, rfl, by decide⟩, ⟨_, rfl, by decide⟩⟩

theorem witness_ResetAssertionSetsTheCore :
    (failed [.assertReset]).HostNext .assertReset [] ∧ ((starting 0 []).Inv ∧ (starting 0 []).initialising = true) ∧
    ({ starting 1 [.read ⟨0x44, 4⟩ 0] with resetIn := true } : State).HostNext (.read ⟨0x44, 4⟩ 0) [] ∧
    ({ starting 1 [.write ⟨0x40, 4⟩ 0#32] with resetIn := true } : State).HostNext (.write ⟨0x40, 4⟩ 0#32) [] ∧
    ({ starting 1 [.bootClear] with resetIn := true } : State).HostNext .bootClear [] ∧
    HostOp.bootClear ≠ .assertReset ∧ HostOp.bootClear ≠ .releaseReset :=
  ⟨⟨rfl, .inl rfl⟩, ⟨starting_inv _ _, rfl⟩, ⟨rfl, .inr (by decide)⟩, ⟨rfl, .inr (by decide)⟩, ⟨rfl, .inr (by decide)⟩,
    by decide, by decide⟩

theorem witness_InitialisationEndsWithClearArrays :
    ((starting 1 [.wait]).Inv ∧ (starting 1 [.wait]).initialising = true ∧ (starting 1 [.wait]).resetIn = false ∧
      HostOp.assertReset ∉ (starting 1 [.wait]).host ∧ (starting 1 [.wait]).HostGoesOn ∧
      runSteps 1 (starting 1 [.wait]) = .next (starting 0 [.wait])) ∧ (starting 0 []).delay = 0 :=
  ⟨⟨starting_inv _ _, rfl, rfl, by simp [starting], .inr ⟨rfl, by decide⟩, rfl⟩, rfl⟩

theorem witness_ResetValuesAfterInitialisation :
    ((∃ cfg, State.reset = State.resetWith cfg) ∧ State.reset.cfg.mulImpl = .logTable 0x02#8 .ram) ∧
    (∃ s : State, s.Inv ∧ shares.assertReset = s.assertReset) ∧ (0xFE#8).toNat < 255 :=
  ⟨⟨⟨_, rfl⟩, rfl⟩, ⟨shares, shares_inv, rfl⟩, by decide⟩

/-! ## Invariants -/

theorem witness_StepKeepsTheInvariant : (due 0x20FF0100#32).Inv ∧ ∃ t, step (due 0x20FF0100#32) = .next t :=
  ⟨due_inv _, _, rfl⟩

theorem witness_ReachableStatesMeetTheStatusRules :
    ∃ t, runSteps 3 { State.resetWith serial11D with
      host := [issueOp serial11D 0x03000000#32, .releaseReset], delay := 1, delays := [0] } = .next t ∧
      t.ovr = true ∧ t.busy = false := ⟨_, rfl, rfl, rfl⟩

theorem witness_ParametersNeverChange :
    ∃ t, step tabled = .next t ∧ tabled.cfg.mulImpl = .logTable 0x02#8 .ram := ⟨_, rfl, rfl⟩

theorem witness_TablesAreNeverWrittenAfterwards :
    ∃ t, step State.reset = .next t ∧ t.logTab ≠ State.reset.logTab :=
  ⟨_, rfl, by decide⟩

/-- COEF and PX change by their commands, and all arrays by the end of the initialisation. -/
theorem witness_ArraysAreWrittenOnlyByTheirCommands :
    (∀ ops, ¬ (due 0x10FF4800#32).HostNext .assertReset ops) ∧
    (∃ t, step (due 0x10FF4800#32) = .next t ∧ t.coef.read 0xFF#8 ≠ (due 0x10FF4800#32).coef.read 0xFF#8) ∧
    (∃ t, step (due 0x20000163#32) = .next t ∧ t.px.read 0#8 ≠ (due 0x20000163#32).px.read 0#8) ∧
    (∃ t, step { starting 0 [] with coef := [(0, 0x48#8)] } = .next t ∧ t.coef.read 0#8 ≠ 0x48#8) :=
  ⟨fun ops h => (by cases h.host), ⟨_, rfl, by decide⟩, ⟨_, rfl, by decide⟩, ⟨_, rfl, by decide⟩⟩

theorem witness_HostAccessesLearnNothingOfTheArrays :
    ((hosted [.rd 0]).HostNext (.rd 0) [] ∧ ∃ t, step (hosted [.rd 0]) = .next t) ∧
    ((hosted [.check]).HostNext .check [] ∧ step (hosted [.check]) = .fault .checkFailed) ∧
    ((hosted [.read ⟨0x41, 4⟩ 0]).HostNext (.read ⟨0x41, 4⟩ 0) [] ∧
      step (hosted [.read ⟨0x41, 4⟩ 0]) = .refused .badAccess) :=
  ⟨⟨⟨rfl, .inl rfl⟩, _, rfl⟩, ⟨⟨rfl, .inl rfl⟩, rfl⟩, ⟨⟨rfl, .inl rfl⟩, rfl⟩⟩

/-- Two states with different secrets. -/
theorem witness_ZeroizeAndResetLeaveNoSecret :
    shares = { idle with coef := shares.coef, px := shares.px, py := shares.py, res := shares.res, pending := shares.pending } ∧
      shares ≠ idle := ⟨rfl, by decide⟩

/-! ## Errors -/

/-- Each of the codes 2 to 7 is recorded by some command, at the ends of the operand ranges. -/
theorem witness_EachErrorHasItsCauseAndInfo :
    shares.err = 0#4 ∧
    (∃ t, exec (.polyEval 0x02#8 0x01#8) shares = .next t ∧ t.err = 2#4) ∧
    (∃ t, exec (.polyEval 0x00#8 0xFF#8) shares = .next t ∧ t.err = 2#4) ∧
    (∃ t, exec (.polyEval 0x00#8 0xFE#8) shares = .next t ∧ t.err = 3#4) ∧
    (∃ t, exec (.gfInv 0x00#8) shares = .next t ∧ t.err = 4#4) ∧
    (∃ t, exec (.gfDiv 0x00#8 0x00#8) shares = .next t ∧ t.err = 4#4) ∧
    (∃ t, exec (.interp0 0x01#8) shares = .next t ∧ t.err = 5#4) ∧
    (∃ t, exec (.interp0 0x04#8) shares = .next t ∧ t.err = 6#4 ∧ t.errInfo = 0x03#8) ∧
    (∃ t, exec (.interp0 0x02#8) { shares with px := [(0, 0x01#8), (1, 0x01#8)] } = .next t ∧ t.err = 7#4) ∧
    decode 0x00000001#32 = .error (.unusedFieldNonZero 0x00#8) :=
  ⟨rfl, ⟨_, rfl, rfl⟩, ⟨_, rfl, rfl⟩, ⟨_, rfl, rfl⟩, ⟨_, rfl, rfl⟩, ⟨_, rfl, rfl⟩, ⟨_, rfl, rfl⟩, ⟨_, rfl, rfl, rfl⟩,
    ⟨_, rfl, rfl⟩, by decide⟩

theorem witness_ErrorsRecordAndStick :
    (shares.done = false ∧ ∃ t, exec (.gfInv 0x00#8) shares = .next t ∧ t.done = false) ∧
    ((failed [issueOp serial11D 0#32]).Inv ∧ (failed []).err ≠ 0#4 ∧ ∃ t, step (failed [issueOp serial11D 0#32]) = .next t) :=
  ⟨⟨rfl, _, rfl, rfl⟩, failed_inv _, by decide, _, rfl⟩

theorem witness_CtrlClearRestoresAcceptance : (failed []).Inv ∧ (failed []).err ≠ 0#4 := ⟨failed_inv _, by decide⟩

theorem witness_HostChecksStopTheProgram :
    (hosted [.wait]).HostNext .wait [] ∧ (failed [.rd 1]).HostNext (.rd 1) [] ∧ (failed [.bootClear]).HostNext .bootClear [] ∧
    ({ hosted [.check] with done := true } : State).HostNext .check [] ∧
    (failed [.check]).HostNext .check [] ∧ (failed [.check]).err ≠ 0#4 ∧
    (hosted [.bootInfo 0x1D#8]).HostNext (.bootInfo 0x1D#8) [] ∧ 0x1D#8 = serial11D.fieldPoly.extractLsb' 0 8 ∧
    (hosted [.bootInfo 0x1B#8]).HostNext (.bootInfo 0x1B#8) [] ∧ 0x1B#8 ≠ serial11D.fieldPoly.extractLsb' 0 8 :=
  ⟨⟨rfl, .inl rfl⟩, ⟨rfl, .inl rfl⟩, ⟨rfl, .inl rfl⟩, ⟨rfl, .inl rfl⟩, ⟨rfl, .inl rfl⟩, by decide, ⟨rfl, .inl rfl⟩,
    by decide, ⟨rfl, .inl rfl⟩, by decide⟩

/-! ## Commands -/

theorem witness_CommandsKeepEverythingElse :
    (∃ t, exec (.coefWr 0x01#8 0x00#8) shares = .next t) ∧ storesCoef (.coefWr 0x01#8 0x00#8) 0x02#8 = false ∧
    writesResult (.coefWr 0x01#8 0x00#8) = false ∧ Instr.coefWr 0x01#8 0x00#8 ≠ .zeroize ∧
    (∃ t, exec (.ptWr 0xFF#8 0x01#8 0x01#8) shares = .next t) ∧ storesPoint (.ptWr 0xFF#8 0x01#8 0x01#8) 0xFE#8 = false :=
  ⟨⟨_, rfl⟩, by decide, by decide, by decide, ⟨_, rfl⟩, by decide⟩

theorem witness_GfAddGivesTheXor : 0x01#8 ≠ 0x00#8 ∧ (due (Word.mk 0x01#8 0x53#8 0xCA#8 0x01#8)).Ready (Word.mk 0x01#8 0x53#8 0xCA#8 0x01#8) :=
  ⟨by decide, due_ready _⟩

theorem witness_GfMulGivesTheProduct :
    (due (Word.mk 0x02#8 0x53#8 0xCA#8 0xFF#8)).Ready (Word.mk 0x02#8 0x53#8 0xCA#8 0xFF#8) ∧
    idle.cfg.fieldPoly = 0x11D#9 ∧ ({ idle with cfg := serial11B } : State).cfg.fieldPoly = 0x11B#9 := ⟨due_ready _, rfl, rfl⟩

theorem witness_GfInvGivesTheInverse :
    (due (Word.mk 0x03#8 0x53#8 0x01#8 0x00#8)).Ready (Word.mk 0x03#8 0x53#8 0x01#8 0x00#8) ∧ 0x53#8 ≠ 0x00#8 ∧
    idle.cfg.fieldPoly = 0x11D#9 := ⟨due_ready _, by decide, rfl⟩

theorem witness_GfDivGivesTheQuotient :
    (due (Word.mk 0x04#8 0x53#8 0xCA#8 0x01#8)).Ready (Word.mk 0x04#8 0x53#8 0xCA#8 0x01#8) ∧ 0xCA#8 ≠ 0x00#8 ∧
    idle.cfg.fieldPoly = 0x11D#9 := ⟨due_ready _, by decide, rfl⟩

theorem witness_CoefWrWritesOneCoefficient :
    (due (Word.mk 0x10#8 0x00#8 0x48#8 0x01#8)).Ready (Word.mk 0x10#8 0x00#8 0x48#8 0x01#8) ∧ 0xFF#8 ≠ 0x00#8 ∧
    254 ≤ (0xFE#8).toNat ∧ 254 ≤ (0xFF#8).toNat := ⟨due_ready _, by decide, by decide, by decide⟩

theorem witness_HornerComputesThePolynomial : 0x1F9#9 ∈ Config.legalPolys := by decide

/-- The smallest and the largest legal count, and the counts beside them. -/
theorem witness_PolyEvalGivesTheShare :
    (due (Word.mk 0x11#8 0x02#8 0x02#8 0x01#8)).Ready (Word.mk 0x11#8 0x02#8 0x02#8 0x01#8) ∧
    (0x01#8).toNat < 2 ∧ 254 < (0xFF#8).toNat ∧ 2 ≤ (0x02#8).toNat ∧ (0xFE#8).toNat ≤ 254 ∧ 0x01#8 ≠ 0x00#8 ∧
    (({ shares with coef := [(0, 0x48#8), (1, 0x2B#8)] } : State).coef.entry 0 = 0x48#8 ∧
      ({ shares with coef := [(0, 0x48#8), (1, 0x2B#8)] } : State).coef.entry 1 = 0x2B#8) :=
  ⟨due_ready _, by decide, by decide, by decide, by decide, by decide, by decide⟩

/-- Two states that agree on two coefficients, not on the third, nor on MUL_IMPL. -/
theorem witness_PolyEvalDependsOnItsCoefficientsOnly :
    let s' : State := { tabled with coef := [(0, 0xA5#8), (1, 0x11#8)] }
    shares.cfg.fieldPoly = s'.cfg.fieldPoly ∧ (∀ i, i < (0x02#8).toNat → shares.coef.entry i = s'.coef.entry i) ∧
    shares.coef.entry 2 ≠ s'.coef.entry 2 ∧ 2 ≤ (0x02#8).toNat ∧ (0x02#8).toNat ≤ 254 ∧ 0x05#8 ≠ 0x00#8 :=
  ⟨rfl, by decide, by decide, by decide, by decide, by decide⟩

theorem good_shares : GoodPoints shares.px 3 := by
  refine ⟨by decide, by decide, by decide, ?_⟩
  have : ∀ j : Fin 3, ∀ i : Fin 3, i.val < j.val → shares.px.entry i ≠ shares.px.entry j := by decide
  exact fun i j hij hj => this ⟨j, hj⟩ ⟨i, by omega⟩ hij

/-- Each of INTERP0's cases. -/
theorem witness_Interp0GivesTheInterpolatedByte :
    (due (Word.mk 0x21#8 0x02#8 0x00#8 0x01#8)).Ready (Word.mk 0x21#8 0x02#8 0x00#8 0x01#8) ∧ (0x01#8).toNat < 2 ∧
    (2 ≤ (0x04#8).toNat ∧ (0x03#8).toNat < (0x04#8).toNat ∧ shares.px.entry (0x03#8).toNat = 0x00#8 ∧
      ∀ l, l < (0x03#8).toNat → shares.px.entry l ≠ 0x00#8) ∧
    (let px : Memory := [(0, 0x05#8), (1, 0x06#8), (2, 0x05#8), (3, 0x06#8)];
      (∀ l, l < (0x04#8).toNat → px.entry l ≠ 0x00#8) ∧ (0x02#8).toNat < (0x04#8).toNat ∧
      (∃ l, l < (0x02#8).toNat ∧ px.entry l = px.entry (0x02#8).toNat) ∧
      ∀ l' : Fin 2, ∀ l : Fin 2, l.val < l'.val → px.entry l ≠ px.entry l') ∧
    GoodPoints shares.px (0x03#8).toNat ∧
    (let s : State := { idle with px := [(0, 0x01#8), (1, 0x03#8)], py := [(0, 0x63#8), (1, 0x35#8)] };
      s.cfg.fieldPoly = 0x11D#9 ∧ s.px.entry 0 = 0x01#8 ∧ s.py.entry 0 = 0x63#8 ∧ s.px.entry 1 = 0x03#8 ∧
        s.py.entry 1 = 0x35#8) :=
  ⟨due_ready _, by decide, by decide, ⟨by decide, by decide, ⟨0, by decide⟩, by decide⟩, good_shares, by decide⟩

theorem witness_PtWrWritesOnePoint : 0xFE#8 ≠ 0xFF#8 ∧ 0xFF#8 = 0xFF#8 := by decide

theorem witness_NopOnlyCompletes :
    (due (Word.mk 0x00#8 0x00#8 0x00#8 0x01#8)).Ready (Word.mk 0x00#8 0x00#8 0x00#8 0x01#8) ∧ idle.statusWord = 0x00000000#32 ∧
    ∃ t, exec .nop (idle.accept 0x00000000#32) = .next t := ⟨due_ready _, by decide, _, rfl⟩

theorem witness_ZeroizeClearsTheSecrets :
    (due (Word.mk 0x30#8 0x00#8 0x01#8 0x00#8)).Ready (Word.mk 0x30#8 0x00#8 0x01#8 0x00#8) ∧ 2 ≤ (0x02#8).toNat ∧
    (0xFE#8).toNat ≤ 254 ∧ 0x01#8 ≠ 0x00#8 := ⟨due_ready _, by decide, by decide, by decide⟩

/-! ## Field and interpolation -/

theorem witness_GfMulIsThePolynomialProduct : (0x11D#9).getLsbD 8 = true := by decide

theorem witness_LegalPolynomialsAreTheIrreducibleOnes : (0x11B#9).getLsbD 8 = true ∧ 0x11B#9 ∈ Config.legalPolys := by decide

theorem witness_FieldLawsHold : 0x11B#9 ∈ Config.legalPolys ∧ 0x01#8 ≠ 0x00#8 ∧ (0x7F#8).toNat < 0x80 := by decide

theorem witness_InverseHasItsThreeForms :
    (0x11D#9 ∈ Config.legalPolys ∧ 0x53#8 ≠ 0x00#8) ∧
    (tabled.Inv ∧ tabled.initialising = false ∧ tabled.cfg.mulImpl = .logTable 0x02#8 .ram) :=
  ⟨⟨by decide, by decide⟩, tabled_inv, rfl, rfl⟩

theorem witness_TableProductIsTheSerialProduct :
    (tabled.Inv ∧ tabled.initialising = false ∧ tabled.cfg.mulImpl = .logTable 0x02#8 .ram) ∧
    (Config.recommended.fieldPoly = shares.cfg.fieldPoly ∧ ∃ t, exec (.gfMul 0x53#8 0xCA#8) shares = .next t) :=
  ⟨⟨tabled_inv, rfl, rfl⟩, rfl, _, rfl⟩

/-- Three shares of a three-coefficient polynomial (95 section 2.7, ids 2, 4 and 5). -/
theorem witness_SharesRecoverTheSecret :
    shares.cfg.fieldPoly = shares.cfg.fieldPoly ∧ 2 ≤ (0x03#8).toNat ∧ (0x03#8).toNat ≤ 254 ∧ (0x03#8).toNat ≤ (0x03#8).toNat ∧
    GoodPoints shares.px (0x03#8).toNat ∧
    (∀ i, i < (0x03#8).toNat → ∃ u, exec (.polyEval (shares.px.entry i) 0x03#8) shares = .next u ∧
      u.done = true ∧ shares.py.entry i = u.res) := by
  refine ⟨rfl, by decide, by decide, by decide, good_shares, fun i hi => ?_⟩
  have : i = 0 ∨ i = 1 ∨ i = 2 := by
    have : (0x03#8).toNat = 3 := rfl
    omega
  rcases this with rfl | rfl | rfl
  · exact ⟨_, rfl, rfl, by decide⟩
  · exact ⟨_, rfl, rfl, by decide⟩
  · exact ⟨_, rfl, rfl, by decide⟩

/-- Two of the three shares, ids 2 and 4, of the same three-coefficient polynomial. -/
theorem witness_TooFewSharesRaiseNoErrorAndCanGiveAWrongByte :
    (0x02#8).toNat < (0x03#8).toNat ∧ (0x03#8).toNat ≤ 254 ∧ GoodPoints shares.px (0x02#8).toNat ∧
    (∀ i, i < (0x02#8).toNat → ∃ u, exec (.polyEval (shares.px.entry i) 0x03#8) shares = .next u ∧
      u.done = true ∧ shares.py.entry i = u.res) := by
  have two : (0x02#8).toNat = 2 := rfl
  refine ⟨by decide, by decide, ⟨by decide, by decide, by decide, fun i j hij hj => ?_⟩, fun i hi => ?_⟩
  · exact good_shares.distinct i j hij (by omega)
  · exact witness_SharesRecoverTheSecret.2.2.2.2.2 i (by simp only [two] at hi; exact Nat.lt_succ_of_lt hi)

theorem witness_InterpolationIgnoresTheOrderOfPoints :
    let s' : State := { shares with
      px := [(0, 0x05#8), (1, 0x02#8), (2, 0x04#8)], py := [(0, 0x55#8), (1, 0x58#8), (2, 0xBA#8)] }
    shares.cfg.fieldPoly = s'.cfg.fieldPoly ∧ GoodPoints shares.px (0x03#8).toNat ∧
    ((List.range (0x03#8).toNat).map fun i => (shares.px.entry i, shares.py.entry i)).Perm
      ((List.range (0x03#8).toNat).map fun i => (s'.px.entry i, s'.py.entry i)) :=
  ⟨rfl, good_shares, by decide⟩

theorem witness_ConstantAndTwoPointInterpolation :
    GoodPoints shares.px (0x03#8).toNat ∧
    (∀ i, i < (0x03#8).toNat → ({ shares with py := [(0, 0x77#8), (1, 0x77#8), (2, 0x77#8)] } : State).py.entry i = 0x77#8) :=
  ⟨good_shares, by decide⟩

theorem witness_PlacedWordIsCompletedNext : State.reset.Inv := by
  refine ⟨⟨by decide, by decide, by decide, by decide, by decide⟩, ⟨by decide, by decide⟩,
    ⟨rfl, rfl, rfl, rfl, rfl⟩, fun h => ?_⟩
  rcases h with h | h <;> cases h

/-! ## Host programs and the model's choices -/

/-- The longest loads of both kinds, and one entry more. -/
theorem witness_HostLinesExpandIntoAccesses :
    (List.replicate 256 0x48#8).length ≤ 256 ∧ (List.replicate 256 (0x01#8, 0x63#8)).length ≤ 256 ∧
    256 < (List.replicate 257 0x48).length ∧ AsmLine.wf ⟨"coef.wr", [256, 0x48]⟩ = false :=
  ⟨by simp, by simp, by simp, by decide⟩

theorem witness_ModelsChoicesAtReset :
    (failed [.assertReset]).HostNext .assertReset [] ∧
    (shares.assertReset.initialising = true ∧ shares.assertReset.delay = 0 ∧ shares.assertReset.resetIn = true) :=
  ⟨⟨rfl, .inl rfl⟩, rfl, rfl, rfl⟩

end Sys2Proof.Machine.Test
end

section
/-! The parameters are constants of a core (00_scope.md R8): no step changes `cfg`, and INFO shows
FIELD_POLY and GEN. -/

namespace Sys2Proof.Machine

theorem ExecCase.cfg_eq {s t : State} (h : ExecCase s t) : t.cfg = s.cfg := by
  cases h <;> simp

theorem step_cfg {s t : State} (h : step s = .next t) : t.cfg = s.cfg := by
  cases step_cases h with
  | completes _ _ _ _ hc => exact hc.cfg_eq
  | reads => rfl
  | initEnds | passes | writes | asserts | releases => simp

/-- R20: INFO.POLY. -/
@[simp] theorem infoWord_poly (cfg : Config) :
    (infoWord cfg).extractLsb' 0 8 = cfg.fieldPoly.extractLsb' 0 8 := by
  unfold infoWord
  exact BitVec.extractLsb'_append_eq_right

/-- R20: INFO.GEN. -/
@[simp] theorem infoWord_gen (cfg : Config) : (infoWord cfg).extractLsb' 8 8 = infoGen cfg := by
  unfold infoWord
  rw [BitVec.extractLsb'_append_eq_of_le (by decide)]
  exact BitVec.extractLsb'_append_eq_right

/-- Settles O24: `cfg` holds FIELD_POLY and GEN, every case of a step keeps it, and INFO is read from it. -/
theorem parametersNeverChange : Obligations.ParametersNeverChange := by
  intro s t h
  have hcfg := step_cfg h
  refine ⟨hcfg, ?_, fun g st hg => ?_⟩
  · simp [State.readReg, hcfg]
  · simp [State.readReg, hcfg, infoGen, hg]

end Sys2Proof.Machine
end

section
/-! The product of polynomials over GF(2) and its reduction modulo P(x) (40_field_arithmetic.md R55):
`gfMul` is `polyProduct` followed by `polyRem`, for every P(x). -/

namespace Sys2Proof.Machine

/-- The contribution of bit `i` of `b` to the product of `a` and `b`. -/
def polyTerm (a : BitVec 16) (b : Byte) (i : Nat) : BitVec 16 := if b.getLsbD i then a <<< i else 0#16

theorem polyProduct_eq_foldl (a : BitVec 16) (b : Byte) :
    polyProduct a b = (List.range 8).foldl (fun acc i => acc ^^^ polyTerm a b i) 0#16 := by
  unfold polyProduct polyTerm
  congr 1
  funext acc i
  split <;> simp

theorem polyTerm_xor_left (a a' : BitVec 16) (b : Byte) (i : Nat) :
    polyTerm (a ^^^ a') b i = polyTerm a b i ^^^ polyTerm a' b i := by
  unfold polyTerm
  split
  · exact BitVec.shiftLeft_xor_distrib a a' i
  · simp

theorem polyTerm_xor_right (a : BitVec 16) (b b' : Byte) (i : Nat) :
    polyTerm a (b ^^^ b') i = polyTerm a b i ^^^ polyTerm a b' i := by
  unfold polyTerm
  cases hb : b.getLsbD i <;> cases hb' : b'.getLsbD i <;> simp [hb, hb']

theorem foldl_xor_xor (f g : Nat → BitVec 16) (l : List Nat) (r s : BitVec 16) :
    l.foldl (fun acc i => acc ^^^ (f i ^^^ g i)) (r ^^^ s) =
      l.foldl (fun acc i => acc ^^^ f i) r ^^^ l.foldl (fun acc i => acc ^^^ g i) s := by
  induction l generalizing r s with
  | nil => rfl
  | cons i l ih =>
    simp only [List.foldl_cons]
    rw [← ih]
    congr 1
    ac_rfl

theorem polyProduct_xor_left (a a' : BitVec 16) (b : Byte) :
    polyProduct (a ^^^ a') b = polyProduct a b ^^^ polyProduct a' b := by
  simp only [polyProduct_eq_foldl, polyTerm_xor_left]
  exact foldl_xor_xor _ _ _ 0#16 0#16

theorem polyProduct_xor_right (a : BitVec 16) (b b' : Byte) :
    polyProduct a (b ^^^ b') = polyProduct a b ^^^ polyProduct a b' := by
  simp only [polyProduct_eq_foldl, polyTerm_xor_right]
  exact foldl_xor_xor _ _ _ 0#16 0#16

/-- The product with x^n is the shift by n. -/
theorem polyProduct_bit (a : BitVec 16) {n : Nat} (hn : n < 8) : polyProduct a (0x01#8 <<< n) = a <<< n := by
  have : n = 0 ∨ n = 1 ∨ n = 2 ∨ n = 3 ∨ n = 4 ∨ n = 5 ∨ n = 6 ∨ n = 7 := by omega
  rcases this with rfl | rfl | rfl | rfl | rfl | rfl | rfl | rfl <;> simp [polyProduct, List.range, List.range.loop]

/-- The remainder modulo P(x) of a polynomial of degree below 16: the upper byte stands for multiples of x^8. -/
def polyRem (p : BitVec 9) (w : BitVec 16) : Byte := w.extractLsb' 0 8 ^^^ xtimes p 8 (w.extractLsb' 8 8)

theorem polyRem_xor (p : BitVec 9) (w w' : BitVec 16) : polyRem p (w ^^^ w') = polyRem p w ^^^ polyRem p w' := by
  unfold polyRem
  rw [BitVec.extractLsb'_xor, BitVec.extractLsb'_xor, xtimes_xor]
  ac_rfl

/-- x^k reduces to `xtime` applied k times to 1. -/
theorem polyRem_bit (p : BitVec 9) {k : Nat} (hk : k < 16) : polyRem p (0x0001#16 <<< k) = xtimes p k 0x01#8 := by
  unfold polyRem
  by_cases h : k < 8
  · have low : ∀ k < 8, (0x0001#16 <<< k).extractLsb' 0 8 = 0x01#8 <<< k ∧
        (0x0001#16 <<< k).extractLsb' 8 8 = 0x00#8 := by decide
    obtain ⟨h0, h8⟩ := low k h
    rw [h0, h8, xtimes_zero, BitVec.xor_zero, xtimes_one p k h]
  · obtain ⟨j, rfl⟩ : ∃ j, k = 8 + j := ⟨k - 8, by omega⟩
    have high : ∀ j < 8, (0x0001#16 <<< (8 + j)).extractLsb' 0 8 = 0x00#8 ∧
        (0x0001#16 <<< (8 + j)).extractLsb' 8 8 = 0x01#8 <<< j := by decide
    obtain ⟨h0, h8⟩ := high j (by omega)
    rw [h0, h8, BitVec.zero_xor, xtimes_add, xtimes_one p j (by omega)]

/-- P(x) itself has the remainder 0. -/
theorem polyRem_self {p : BitVec 9} (hp : p.getLsbD 8 = true) : polyRem p (p.setWidth 16) = 0x00#8 := by
  have hi : (p.setWidth 16).extractLsb' 8 8 = 0x01#8 := by
    revert p; decide
  have lo : (p.setWidth 16).extractLsb' 0 8 = p.extractLsb' 0 8 := by
    revert p; decide
  rw [polyRem, hi, lo, xtimes_one_eight, BitVec.xor_self]

/-- R55: the bit-serial loop gives the remainder of the product; both are linear in each operand, so it
is enough to compare them at the powers of x. -/
theorem polyRem_polyProduct (p : BitVec 9) (a b : Byte) :
    polyRem p (polyProduct (a.setWidth 16) b) = gfMul p a b := by
  have linear_right : Linear fun b => polyRem p (polyProduct (a.setWidth 16) b) := fun b b' => by
    simp only [polyProduct_xor_right, polyRem_xor]
  refine Linear.ext linear_right (gfMul_xor_right p a) (fun n hn => ?_) b
  rw [polyProduct_bit _ hn, gfMul_bit p a n hn]
  have linear_left : Linear fun a => polyRem p (a.setWidth 16 <<< n) := fun a a' => by
    simp only [BitVec.setWidth_xor, BitVec.shiftLeft_xor_distrib, polyRem_xor]
  refine Linear.ext linear_left (xtimes_xor p n) (fun m hm => ?_) a
  have widen : ∀ m < 8, (0x01#8 <<< m).setWidth 16 = 0x0001#16 <<< m := by decide
  rw [widen m hm, ← BitVec.shiftLeft_add, polyRem_bit p (by omega), ← xtimes_one p m hm, ← xtimes_add, Nat.add_comm]

end Sys2Proof.Machine
end

section
/-! The products modulo P(x) form a commutative monoid, for every P(x); its powers are `gfPow`, and
`isPrimitive` says that an element has order 255 in it. -/

namespace Sys2Proof.Machine

@[simp] theorem gfMul_zero (p : BitVec 9) (a : Byte) : gfMul p a 0x00#8 = 0x00#8 :=
  Linear.zero (gfMul_xor_right p a)

@[simp] theorem zero_gfMul (p : BitVec 9) (a : Byte) : gfMul p 0x00#8 a = 0x00#8 :=
  Linear.zero (f := fun b => gfMul p b a) fun b b' => gfMul_xor_left p b b' a

@[simp] theorem gfMul_one (p : BitVec 9) (a : Byte) : gfMul p a 0x01#8 = a := gfMul_bit p a 0 (by omega)

@[simp] theorem one_gfMul (p : BitVec 9) (a : Byte) : gfMul p 0x01#8 a = a := by
  refine Linear.ext (g := id) (gfMul_xor_right p 0x01#8) (fun _ _ => rfl) (fun n hn => ?_) a
  rw [gfMul_bit p _ n hn, xtimes_one p n hn]
  rfl

theorem gfMul_xtimes (p : BitVec 9) (n : Nat) (a b : Byte) : gfMul p (xtimes p n a) b = xtimes p n (gfMul p a b) := by
  have linear : Linear fun b => xtimes p n (gfMul p a b) := fun b b' => by
    simp only [gfMul_xor_right, xtimes_xor]
  refine Linear.ext (gfMul_xor_right p (xtimes p n a)) linear (fun m hm => ?_) b
  rw [gfMul_bit p _ m hm, gfMul_bit p _ m hm, ← xtimes_add, ← xtimes_add, Nat.add_comm]

theorem gfMul_comm (p : BitVec 9) (a b : Byte) : gfMul p a b = gfMul p b a := by
  have linear : Linear fun b => gfMul p b a := fun b b' => gfMul_xor_left p b b' a
  refine Linear.ext (gfMul_xor_right p a) linear (fun n hn => ?_) b
  rw [gfMul_bit p a n hn, ← xtimes_one p n hn, gfMul_xtimes, one_gfMul]

theorem gfMul_assoc (p : BitVec 9) (a b c : Byte) : gfMul p (gfMul p a b) c = gfMul p a (gfMul p b c) := by
  have linear : Linear fun c => gfMul p a (gfMul p b c) := fun c c' => by simp only [gfMul_xor_right]
  refine Linear.ext (gfMul_xor_right p (gfMul p a b)) linear (fun n hn => ?_) c
  rw [gfMul_bit p _ n hn, gfMul_bit p _ n hn, gfMul_comm p a (xtimes p n b), gfMul_xtimes, gfMul_comm p b a]

/-- The bytes under `gfMul p`, with `gfPow p` as the power. -/
abbrev gfMonoid (p : BitVec 9) : CommMonoid Byte where
  mul := gfMul p
  mul_assoc := gfMul_assoc p
  one := 0x01#8
  one_mul := one_gfMul p
  mul_one := gfMul_one p
  mul_comm := gfMul_comm p
  npow n a := gfPow p a n
  npow_zero _ := rfl
  npow_succ _ _ := rfl

theorem gfPow_add (p : BitVec 9) (a : Byte) (m n : Nat) : gfPow p a (m + n) = gfMul p (gfPow p a m) (gfPow p a n) :=
  @pow_add Byte (gfMonoid p).toMonoid a m n

theorem gfPow_mul (p : BitVec 9) (a : Byte) (m n : Nat) : gfPow p a (m * n) = gfPow p (gfPow p a m) n :=
  @pow_mul Byte (gfMonoid p).toMonoid a m n

@[simp] theorem one_gfPow (p : BitVec 9) (n : Nat) : gfPow p 0x01#8 n = 0x01#8 :=
  @one_pow Byte (gfMonoid p).toMonoid n

@[simp] theorem gfPow_one (p : BitVec 9) (a : Byte) : gfPow p a 1 = a :=
  @pow_one Byte (gfMonoid p).toMonoid a

theorem gfOrbit_gfPow (p : BitVec 9) (g : Byte) (n m : Nat) :
    gfOrbit p g n (gfPow p g m) = (List.range' m n).map (gfPow p g) := by
  induction n generalizing m with
  | zero => rfl
  | succ n ih => rw [List.range'_succ, List.map_cons, ← ih]; rfl

theorem isPrimitive_iff_orderOf (p : BitVec 9) (g : Byte) :
    isPrimitive p g = true ↔ @orderOf Byte (gfMonoid p).toMonoid g = 255 := by
  have orbit : gfOrbit p g 254 g = (List.range' 1 254).map (gfPow p g) := by
    rw [← gfOrbit_gfPow, gfPow_one]
  rw [@orderOf_eq_iff Byte (gfMonoid p).toMonoid g 255 (by omega)]
  have powers : isPrimitive p g = true ↔
      (∀ m, 1 ≤ m ∧ m < 255 → gfPow p g m ≠ 0x01#8) ∧ gfPow p g 255 = 0x01#8 := by
    simp [isPrimitive, orbit]
  rw [powers]
  exact ⟨fun ⟨hlt, h⟩ => ⟨h, fun m hm h0 => hlt m ⟨h0, hm⟩⟩, fun ⟨h, hlt⟩ => ⟨fun m hm => hlt m hm.2 hm.1, h⟩⟩

/-- 255 = 3 · 5 · 17, so three powers decide whether an element with g^255 = 1 is primitive. -/
theorem isPrimitive_iff_powers (p : BitVec 9) (g : Byte) : isPrimitive p g = true ↔
    gfPow p g 255 = 0x01#8 ∧ gfPow p g 85 ≠ 0x01#8 ∧ gfPow p g 51 ≠ 0x01#8 ∧ gfPow p g 15 ≠ 0x01#8 := by
  rw [isPrimitive_iff_orderOf]
  constructor
  · intro h
    obtain ⟨h255, hlt⟩ := (@orderOf_eq_iff Byte (gfMonoid p).toMonoid g 255 (by omega)).1 h
    exact ⟨h255, hlt 85 (by omega) (by omega), hlt 51 (by omega) (by omega), hlt 15 (by omega) (by omega)⟩
  · rintro ⟨h255, h85, h51, h15⟩
    refine @orderOf_eq_of_pow_and_pow_div_prime Byte (gfMonoid p).toMonoid g 255 (by omega) h255 fun q hq hd => ?_
    have : q = 3 ∨ q = 5 ∨ q = 17 := by
      have hmem : q ∈ Nat.primeFactorsList 255 := (Nat.mem_primeFactorsList (by omega)).2 ⟨hq, hd⟩
      have : Nat.primeFactorsList 255 = [3, 5, 17] := by simp
      simpa [this] using hmem
    rcases this with rfl | rfl | rfl
    · exact h85
    · exact h51
    · exact h15

theorem gfPow_255_of_isPrimitive {p : BitVec 9} {g : Byte} (hg : isPrimitive p g = true) (k : Nat) :
    gfPow p (gfPow p g k) 255 = 0x01#8 := by
  obtain ⟨h255, -⟩ := (isPrimitive_iff_powers p g).1 hg
  rw [← gfPow_mul, Nat.mul_comm, gfPow_mul, h255, one_gfPow]

/-- No power of a primitive element is 0, since 0 has no power that is 1. -/
theorem gfPow_ne_zero_of_isPrimitive {p : BitVec 9} {g : Byte} (hg : isPrimitive p g = true) (k : Nat) :
    gfPow p g k ≠ 0x00#8 := by
  intro h0
  have h1 := gfPow_255_of_isPrimitive hg k
  rw [h0, gfPow, gfMul_zero] at h1
  exact absurd h1 (by decide)

/-- The 255 powers of a primitive element are distinct and not 0, so they are all the non-zero bytes. -/
theorem exists_gfPow_eq {p : BitVec 9} {g a : Byte} (hg : isPrimitive p g = true) (ha : a ≠ 0x00#8) :
    ∃ k < 255, gfPow p g k = a := by
  have inj : Set.InjOn (gfPow p g) (Finset.range 255) := by
    rw [Finset.coe_range, ← (isPrimitive_iff_orderOf p g).1 hg]
    exact @pow_injOn_Iio_orderOf Byte (gfMonoid p).toMonoid g
  have surj := Finset.surjOn_of_injOn_of_card_le (t := Finset.univ.erase 0x00#8) (gfPow p g)
    (fun k _ => by simpa using gfPow_ne_zero_of_isPrimitive hg k) inj (by simp [Fintype.card_congr BitVec.equivFin.toEquiv])
  simpa using surj (by simpa using ha)

end Sys2Proof.Machine
end

section
/-! The legal polynomials (00_scope.md R7). An irreducible one is recognised by a primitive element:
where there is one, no two non-zero bytes have the product 0, but the factors of P(x) would. -/

namespace Sys2Proof.Machine

/-- `a` squared `k` times. -/
def gfSquares (p : BitVec 9) : Nat → Byte → Byte
  | 0, a => a
  | k + 1, a => gfSquares p k (gfMul p a a)

theorem gfSquares_eq (p : BitVec 9) (k : Nat) (a : Byte) : gfSquares p k a = gfPow p a (2 ^ k) := by
  induction k generalizing a with
  | zero => exact (gfPow_one p a).symm
  | succ k ih => rw [gfSquares, ih, Nat.pow_succ', gfPow_mul, gfPow_add p a 1 1, gfPow_one]

/-- The power by 2^k + 1; 3, 5 and 17 are of this form. -/
def fermatPow (p : BitVec 9) (k : Nat) (a : Byte) : Byte := gfMul p (gfSquares p k a) a

theorem fermatPow_eq (p : BitVec 9) (k : Nat) (a : Byte) : fermatPow p k a = gfPow p a (2 ^ k + 1) := by
  rw [fermatPow, gfSquares_eq]; rfl

/-- `isPrimitive` in the few products that a check over all legal polynomials can afford. -/
def fastIsPrimitive (p : BitVec 9) (g : Byte) : Bool :=
  fermatPow p 4 (fermatPow p 2 (fermatPow p 1 g)) == 0x01#8 && fermatPow p 4 (fermatPow p 2 g) != 0x01#8 &&
    fermatPow p 4 (fermatPow p 1 g) != 0x01#8 && fermatPow p 2 (fermatPow p 1 g) != 0x01#8

theorem fastIsPrimitive_eq (p : BitVec 9) (g : Byte) : fastIsPrimitive p g = isPrimitive p g := by
  rw [Bool.eq_iff_iff, isPrimitive_iff_powers]
  simp [fastIsPrimitive, fermatPow_eq, ← gfPow_mul, and_assoc]

/-- R7: the legal polynomials for which x is a primitive element. -/
abbrev xPrimitivePolys : List (BitVec 9) :=
  [0x11D#9, 0x12B#9, 0x12D#9, 0x14D#9, 0x15F#9, 0x163#9, 0x165#9, 0x169#9] ++
    [0x171#9, 0x187#9, 0x18D#9, 0x1A9#9, 0x1C3#9, 0x1CF#9, 0x1E7#9, 0x1F5#9]

theorem isPrimitive_x_iff (p : BitVec 9) (hp : p ∈ Config.legalPolys) :
    isPrimitive p 0x02#8 = true ↔ p ∈ xPrimitivePolys := by
  have check : Config.legalPolys.all fun p => fastIsPrimitive p 0x02#8 == decide (p ∈ xPrimitivePolys) := by
    decide +kernel
  rw [← fastIsPrimitive_eq, eq_of_beq (List.all_eq_true.1 check p hp), decide_eq_true_iff]

/-- One of x, x^2 + x and x^3 + 1 is primitive. -/
theorem exists_isPrimitive {p : BitVec 9} (hp : p ∈ Config.legalPolys) : ∃ g, isPrimitive p g = true := by
  have check : Config.legalPolys.all fun p => [0x02#8, 0x06#8, 0x09#8].any (fastIsPrimitive p) := by
    decide +kernel
  obtain ⟨g, -, hg⟩ := List.any_eq_true.1 (List.all_eq_true.1 check p hp)
  exact ⟨g, fastIsPrimitive_eq p g ▸ hg⟩

/-- Every non-zero byte is a power of a primitive element, so its 255th power is 1. -/
theorem gfPow_255 {p : BitVec 9} (hp : p ∈ Config.legalPolys) {a : Byte} (ha : a ≠ 0x00#8) :
    gfPow p a 255 = 0x01#8 := by
  obtain ⟨g, hg⟩ := exists_isPrimitive hp
  obtain ⟨k, -, rfl⟩ := exists_gfPow_eq hg ha
  exact gfPow_255_of_isPrimitive hg k

/-- There are no divisors of zero modulo a legal polynomial: `a` has the inverse a^254. -/
theorem gfMul_ne_zero {p : BitVec 9} (hp : p ∈ Config.legalPolys) {a b : Byte} (ha : a ≠ 0x00#8)
    (hb : b ≠ 0x00#8) : gfMul p a b ≠ 0x00#8 := by
  intro h
  apply hb
  calc b = gfMul p (gfPow p a 255) b := by rw [gfPow_255 hp ha, one_gfMul]
    _ = gfMul p (gfPow p a 254) (gfMul p a b) := gfMul_assoc p _ a b
    _ = 0x00#8 := by rw [h, gfMul_zero]

theorem bit8_of_mem_legalPolys : ∀ p ∈ Config.legalPolys, p.getLsbD 8 = true :=
  List.all_eq_true.1 (by decide)

theorem isIrreducible_of_mem_legalPolys {p : BitVec 9} (hp : p ∈ Config.legalPolys) : IsIrreducible p := by
  intro f g hf hg hfg
  have hzero : gfMul p f g = 0x00#8 := by
    rw [← polyRem_polyProduct, hfg, polyRem_self (bit8_of_mem_legalPolys p hp)]
  refine gfMul_ne_zero hp ?_ ?_ hzero <;> rintro rfl <;> contradiction

/-- Factorizations of P(x) to be tried: by x, and by each irreducible polynomial g of degree 1 to 4 with
the constant term 1, where `inv` is the inverse of g modulo x^8 and so the other factor is the product
of P(x) and `inv` modulo x^8. -/
def factorCandidates (p : BitVec 9) : List (Byte × Byte) :=
  ((p >>> 1).setWidth 8, 0x02#8) ::
    [(0x03#8, 0xFF#8), (0x07#8, 0xDB#8), (0x0B#8, 0x97#8), (0x0D#8, 0x9D#8), (0x13#8, 0xAF#8), (0x19#8, 0x59#8),
      (0x1F#8, 0x63#8)].map fun (g, inv) => ((polyProduct (p.setWidth 16) inv).setWidth 8, g)

theorem exists_factors_of_not_mem_legalPolys : ∀ p : BitVec 9, p.getLsbD 8 = true → p ∉ Config.legalPolys →
    ∃ c ∈ factorCandidates p, 2 ≤ c.1.toNat ∧ 2 ≤ c.2.toNat ∧ polyProduct (c.1.setWidth 16) c.2 = p.setWidth 16 := by
  decide +kernel

/-- Settles O47: a legal polynomial has a primitive element and so is irreducible, every other one has one
of the factors that `factorCandidates` tries, and the order of x is checked for each legal polynomial. -/
theorem legalPolynomialsAreTheIrreducibleOnes : Obligations.LegalPolynomialsAreTheIrreducibleOnes := by
  refine ⟨fun p hp => ⟨isIrreducible_of_mem_legalPolys, fun hirr => ?_⟩, isPrimitive_x_iff⟩
  by_contra hlegal
  obtain ⟨⟨f, g⟩, -, hf, hg, hfg⟩ := exists_factors_of_not_mem_legalPolys p hp hlegal
  exact hirr f g hf hg hfg

end Sys2Proof.Machine
end

section
/-! The flags of STATUS and the command channel (10_state.md R17, R23): every step keeps R17 (a) to (e)
and BUSY set exactly while the core works. -/

namespace Sys2Proof.Machine

/-! ## The rules of STATUS -/

/-- With no error recorded, the rules ask only that BUSY and DONE are not both set. -/
theorem State.StatusRules.of_noErr {t : State} (he : t.err = 0#4) (hi : t.errInfo = 0x00#8)
    (hb : t.busy = true → t.done = false) : t.StatusRules :=
  ⟨fun _ => he, fun _ => hi, by simp [he], fun _ => he, hb⟩

/-- The rules stay when DONE, ERR and ERRINFO stay and BUSY is not set anew. -/
theorem State.StatusRules.of_same {s t : State} (h : s.StatusRules) (hd : t.done = s.done) (he : t.err = s.err)
    (hi : t.errInfo = s.errInfo) (hb : t.busy = true → s.busy = true) : t.StatusRules :=
  ⟨by rw [hd, he]; exact h.done_noErr, by rw [he, hi]; exact h.noErr_noInfo, by rw [he]; exact h.err_range,
    fun h1 => he.trans (h.busy_noErr (hb h1)), fun h1 => hd.trans (h.busy_notDone (hb h1))⟩

theorem errCode_ne_zero (e : ErrKind) : errCode e ≠ 0#4 := by cases e <;> decide

theorem errCode_le (e : ErrKind) : (errCode e).toNat ≤ 7 := by cases e <;> decide

/-- An error taken with DONE clear keeps the rules. -/
theorem State.StatusRules.raise {s : State} (e : ErrKind) (info : Byte) (hd : s.done = false) :
    (s.raise e info).StatusRules :=
  ⟨by simp [hd], by simp [errCode_ne_zero], by simpa using errCode_le e, by simp, by simp⟩

/-- A command that ends while BUSY, with an error or with success, keeps the rules. -/
theorem ExecCase.statusRules {s t : State} (h : ExecCase s t) (hs : s.StatusRules) (hb : s.busy = true) :
    t.StatusRules := by
  have he := hs.busy_noErr hb
  have hi := hs.noErr_noInfo he
  cases h with
  | raised e info => exact .raise e info (hs.busy_notDone hb)
  | nothing | result | coefficient | point | cleared => exact .of_noErr (by simpa) (by simpa) (by simp)

/-- R32: when a CMD write is accepted. -/
theorem State.accepts_iff {s : State} : s.accepts = true ↔ s.busy = false ∧ s.err = 0#4 ∧ s.ovr = false := by
  simp [State.accepts, and_assoc]

/-- A write of CMD is accepted only with ERR = 0, and sets BUSY with DONE clear. -/
theorem State.StatusRules.writeCmd {s : State} (h : s.StatusRules) (w : Word) : (s.writeCmd w).StatusRules := by
  unfold State.writeCmd
  split
  next ha =>
    obtain ⟨-, he, -⟩ := State.accepts_iff.1 ha
    exact .of_noErr he (h.noErr_noInfo he) fun _ => rfl
  next => exact h.of_same rfl rfl rfl id

theorem State.StatusRules.writeCtrl {s : State} (h : s.StatusRules) (w : Word) : (s.writeCtrl w).StatusRules := by
  unfold State.writeCtrl
  split
  · exact .of_noErr rfl rfl h.busy_notDone
  · exact h

theorem State.StatusRules.writeReg {s : State} (h : s.StatusRules) (r : Reg) (w : Word) :
    (s.writeReg r w).StatusRules := by
  cases r with
  | cmd => exact h.writeCmd w
  | ctrl => exact h.writeCtrl w
  | status | result | info | rsvd14 | rsvd18 | rsvd1C => exact h

/-! ## The rules of the command channel -/

/-- The rules speak of BUSY, `pending` and `initialising` only. -/
theorem State.ChannelRules.of_same {s t : State} (h : s.ChannelRules) (hb : t.busy = s.busy)
    (hp : t.pending = s.pending) (hi : t.initialising = s.initialising) : t.ChannelRules :=
  ⟨by rw [hb, h.busy_iff, State.working, State.working, hp, hi], by rw [hp, hi]; exact h.notBoth⟩

/-- A core that is not busy and has nothing to do meets the rules. -/
theorem State.ChannelRules.of_idle {t : State} (hb : t.busy = false) (hp : t.pending = none)
    (hi : t.initialising = false) : t.ChannelRules :=
  ⟨by simp [State.working, hb, hp, hi], fun _ => hp⟩

theorem State.ChannelRules.busy_of_ready {s : State} {w : Word} (h : s.ChannelRules) (hr : s.Ready w) :
    s.busy = true := by
  rw [h.busy_iff, State.working, hr.pending]
  simp

theorem State.ChannelRules.busy_eq_true_iff {s : State} (h : s.ChannelRules) :
    s.busy = true ↔ s.pending ≠ none ∨ s.initialising = true := by
  rw [h.busy_iff, State.working, Bool.or_eq_true, Option.isSome_iff_ne_none, or_comm]

theorem State.ChannelRules.not_both {s : State} (h : s.ChannelRules) :
    ¬ (s.pending ≠ none ∧ s.initialising = true) :=
  fun ⟨hp, hi⟩ => hp (h.notBoth hi)

/-- However a command ends, BUSY is cleared, nothing is pending, and no initialisation has begun. -/
theorem ExecCase.channel {s t : State} (h : ExecCase s t) :
    t.busy = false ∧ t.pending = none ∧ t.initialising = s.initialising := by
  cases h <;> simp

/-- A write of CMD is accepted only with BUSY = 0, when no initialisation runs. -/
theorem State.ChannelRules.writeCmd {s : State} (h : s.ChannelRules) (w : Word) : (s.writeCmd w).ChannelRules := by
  unfold State.writeCmd
  split
  next ha =>
    obtain ⟨hb, -, -⟩ := State.accepts_iff.1 ha
    have hi : s.initialising = false := by
      rw [h.busy_iff, State.working, Bool.or_eq_false_iff] at hb
      exact hb.1
    exact ⟨by simp [State.working], by simp [hi]⟩
  next => exact h.of_same rfl rfl rfl

theorem State.ChannelRules.writeReg {s : State} (h : s.ChannelRules) (r : Reg) (w : Word) :
    (s.writeReg r w).ChannelRules := by
  cases r with
  | cmd => exact h.writeCmd w
  | ctrl => exact h.of_same (s.writeCtrl_busy w) (s.writeCtrl_pending w) (s.writeCtrl_initialising w)
  | status | result | info | rsvd14 | rsvd18 | rsvd1C => exact h

/-! ## Steps and runs -/

/-- R17, R23: every step keeps the rules of STATUS; that a command completes only while BUSY is set comes
from the rules of the channel. -/
theorem step_statusRules {s t : State} (hs : s.StatusRules) (hc : s.ChannelRules) (h : step s = .next t) :
    t.StatusRules := by
  cases step_cases h with
  | initEnds => exact hs.of_same (by simp) (by simp) (by simp) (by simp)
  | completes w _ hr _ hcase => exact hcase.statusRules hs (hc.busy_of_ready hr)
  | passes | reads | releases => exact hs.of_same rfl rfl rfl id
  | writes _ w ops r =>
    have hturn : (s.tick.setHost ops).StatusRules := hs.of_same rfl rfl rfl id
    exact hturn.writeReg r w
  | asserts => exact .of_noErr rfl rfl fun _ => rfl

/-- R23: every step keeps the rules of the channel. -/
theorem step_channelRules {s t : State} (hc : s.ChannelRules) (h : step s = .next t) : t.ChannelRules := by
  cases step_cases h with
  | initEnds hi => exact .of_idle (by simp) (by simp [hc.notBoth hi]) (by simp)
  | completes w _ hr _ hcase =>
    obtain ⟨hb, hp, hi⟩ := hcase.channel
    exact .of_idle hb hp (hi.trans hr.started)
  | passes | reads | releases => exact hc.of_same rfl rfl rfl
  | writes _ w ops r =>
    have hturn : (s.tick.setHost ops).ChannelRules := hc.of_same rfl rfl rfl
    exact hturn.writeReg r w
  | asserts => exact ⟨rfl, fun _ => rfl⟩

/-- What every step keeps holds of every state that a run reaches. -/
theorem runSteps_keeps {P : State → Prop} (hstep : ∀ s t, P s → step s = .next t → P t) {k : Nat} {s t : State}
    (hs : P s) (h : runSteps k s = .next t) : P t := by
  induction k generalizing s with
  | zero => cases h; exact hs
  | succ k ih =>
    rw [runSteps_succ] at h
    split at h
    next u hu => exact ih (hstep s u hs hu) h
    next => cases h
    next => cases h

/-- Settles O23: the rules of STATUS and of the channel hold right after reset, and every step keeps them. -/
theorem reachableStatesMeetTheStatusRules : Obligations.ReachableStatesMeetTheStatusRules := by
  refine ⟨fun cfg => ⟨rfl, rfl⟩, fun cfg ops d ds k t h => ?_⟩
  have hrules : t.StatusRules ∧ t.ChannelRules :=
    runSteps_keeps (P := fun s => s.StatusRules ∧ s.ChannelRules)
      (fun _ _ ⟨hs, hc⟩ hst => ⟨step_statusRules hs hc hst, step_channelRules hc hst⟩)
      ⟨.of_noErr rfl rfl fun _ => rfl, rfl, fun _ => rfl⟩ h
  obtain ⟨hs, hc⟩ := hrules
  exact ⟨hs.done_noErr, hs.noErr_noInfo, hs.err_range, hs.busy_noErr, hs.busy_notDone, hc.busy_eq_true_iff, hc.not_both⟩

end Sys2Proof.Machine
end

section
/-! The registers RESULT, INFO, CMD and CTRL of the window (10_state.md R18 to R21), and the commands that
write RES. -/

namespace Sys2Proof.Machine

/-! ## RES -/

/-- A command that produces no result, but for ZEROIZE, leaves RES. -/
theorem exec_res_eq {i : Instr} {s t : State} (h : exec i s = .next t) (hw : writesResult i = false)
    (hz : i ≠ .zeroize) : t.res = s.res := by
  cases i with
  | nop | coefWr | ptWr => cases h; rfl
  | zeroize => contradiction
  | gfAdd | gfMul | gfInv | gfDiv | polyEval | interp0 => cases hw

/-- A command that changes RES has succeeded, since an error leaves RES. -/
theorem ExecCase.done_of_res_ne {s t : State} (h : ExecCase s t) (hne : t.res ≠ s.res) : t.done = true := by
  cases h with
  | raised e info => exact absurd rfl hne
  | nothing | result | coefficient | point | cleared => rfl

/-- R18: the completion of a word changes RES only where it is the success of a result command, or ZEROIZE. -/
theorem completeWord_res_ne {w : Word} {s t : State} (h : completeWord w s = .next t) (hne : t.res ≠ s.res) :
    t.done = true ∧ ((∃ i, decode w = .ok i ∧ writesResult i = true) ∨ (decode w = .ok .zeroize ∧ t.res = 0x00#8)) := by
  unfold completeWord at h
  split at h
  next i hi =>
    refine ⟨(exec_next h).done_of_res_ne hne, ?_⟩
    by_cases hz : i = .zeroize
    · subst hz
      cases h
      exact .inr ⟨hi, rfl⟩
    · cases hw : writesResult i with
      | true => exact .inl ⟨i, hi, hw⟩
      | false => exact absurd (exec_res_eq h hw hz) hne
  next =>
    cases h
    exact absurd rfl hne

/-- R18: RESULT.RES. -/
@[simp] theorem resultWord_res (s : State) : s.resultWord.extractLsb' 0 8 = s.res := by
  ext i hi
  simp [State.resultWord, BitVec.getLsbD_eq_getElem hi, show i < 32 by omega]

/-- R18: bits 31:8 of RESULT. -/
@[simp] theorem resultWord_high (s : State) : s.resultWord.extractLsb' 8 24 = 0#24 := by
  ext i
  simp [State.resultWord]

/-- Settles O17: of the cases of a step only a completion and the assertion of reset touch RES. -/
theorem resultChangesOnlyByItsCommands : Obligations.ResultChangesOnlyByItsCommands := by
  refine ⟨fun s => ⟨accessReg_regAccess s.cfg .result, resultWord_res s, resultWord_high s⟩, fun _ => rfl,
    fun s => ⟨rfl, _, rfl, rfl⟩, fun s t h hne => ?_⟩
  cases step_cases h with
  | completes w _ hr ht _ =>
    obtain ⟨hd, ⟨i, hi, hw⟩ | ⟨hz, h0⟩⟩ := completeWord_res_ne ht hne
    · exact .inl ⟨w, i, hr, hi, hw, hd⟩
    · exact .inr (.inl ⟨w, hr, hz, hd, h0⟩)
  | asserts ops hn => exact .inr (.inr ⟨ops, hn.host, rfl⟩)
  | initEnds | passes | reads | writes | releases => exact absurd (by simp) hne

/-! ## INFO and the reserved offsets -/

/-- R20: INFO.WIDTH. -/
@[simp] theorem infoWord_width (cfg : Config) : (infoWord cfg).extractLsb' 16 4 = 0x8#4 := by
  unfold infoWord
  rw [BitVec.extractLsb'_append_eq_of_le (by decide), BitVec.extractLsb'_append_eq_of_le (by decide)]
  exact BitVec.extractLsb'_append_eq_right

/-- R20: INFO.MULIMPL. -/
@[simp] theorem infoWord_mulImpl (cfg : Config) : (infoWord cfg).extractLsb' 20 4 = infoMulImpl cfg := by
  unfold infoWord
  rw [BitVec.extractLsb'_append_eq_of_le (by decide), BitVec.extractLsb'_append_eq_of_le (by decide), BitVec.extractLsb'_append_eq_of_le (by decide)]
  exact BitVec.extractLsb'_append_eq_right

/-- R20: INFO.IFVER. -/
@[simp] theorem infoWord_ifver (cfg : Config) : (infoWord cfg).extractLsb' 24 8 = 0x01#8 := by
  unfold infoWord
  rw [BitVec.extractLsb'_append_eq_of_le (by decide), BitVec.extractLsb'_append_eq_of_le (by decide), BitVec.extractLsb'_append_eq_of_le (by decide), BitVec.extractLsb'_append_eq_of_le (by decide)]
  exact BitVec.extractLsb'_eq_self

/-- Settles O15: the fields of INFO one by one; each reserved offset is a register of its own. -/
theorem infoAndReservedOffsetsRead : Obligations.InfoAndReservedOffsetsRead := by
  intro s
  refine ⟨accessReg_regAccess s.cfg .info, infoWord_poly s.cfg, fun g st hm => ⟨?_, ?_⟩, fun hm => ⟨?_, ?_⟩,
    infoWord_width s.cfg, infoWord_ifver s.cfg, fun st hp hm => ?_, ?_⟩
  · simp [State.readReg, infoGen, hm]
  · simp [State.readReg, infoMulImpl, hm]
  · simp [State.readReg, infoGen, hm]
  · simp [State.readReg, infoMulImpl, hm]
  · simp [State.readReg, infoWord, infoMulImpl, infoGen, hp, hm]
  · rintro off (rfl | rfl | rfl)
    · exact ⟨.rsvd14, accessReg_regAccess s.cfg .rsvd14, rfl, fun _ => rfl⟩
    · exact ⟨.rsvd18, accessReg_regAccess s.cfg .rsvd18, rfl, fun _ => rfl⟩
    · exact ⟨.rsvd1C, accessReg_regAccess s.cfg .rsvd1C, rfl, fun _ => rfl⟩

/-! ## CMD and CTRL -/

theorem State.writeCmd_of_accepts {s : State} (h : s.accepts = true) (w : Word) : s.writeCmd w = s.accept w := by
  simp [State.writeCmd, h]

theorem State.writeCmd_of_not_accepts {s : State} (h : s.accepts = false) (w : Word) : s.writeCmd w = s.refuse := by
  simp [State.writeCmd, h]

theorem State.writeCtrl_of_clr (s : State) {w : Word} (h : w.getLsbD 0 = true) : s.writeCtrl w = s.clearErrors := by
  rw [State.writeCtrl, if_pos h]

theorem State.writeCtrl_of_not_clr (s : State) {w : Word} (h : w.getLsbD 0 = false) : s.writeCtrl w = s := by
  rw [State.writeCtrl, h]; rfl

/-- Settles O16: both registers read 0, and each branch of their writes is one state. -/
theorem ctrlClearsTheErrorRecord : Obligations.CtrlClearsTheErrorRecord := by
  intro s w
  exact ⟨accessReg_regAccess s.cfg .cmd, accessReg_regAccess s.cfg .ctrl, rfl, rfl,
    fun ha => State.writeCmd_of_accepts ha w, fun ha => State.writeCmd_of_not_accepts ha w,
    s.writeCtrl_of_clr, s.writeCtrl_of_not_clr⟩

end Sys2Proof.Machine
end

section
/-! ZEROIZE and reset overwrite the secret-bearing state (10_state.md R28): neither reads what it held. -/

namespace Sys2Proof.Machine

/-- R75: ZEROIZE gives the same state whatever the arrays, RES and `pending` held. -/
theorem execZeroize_forgets (s : State) (c x y : Memory) (v : Byte) (p : Option Word) :
    execZeroize { s with coef := c, px := x, py := y, res := v, pending := p } = execZeroize s := rfl

/-- R91, R92: so does reset once its initialisation has ended. -/
theorem assertReset_endInit_forgets (s : State) (c x y : Memory) (v : Byte) (p : Option Word) :
    ({ s with coef := c, px := x, py := y, res := v, pending := p } : State).assertReset.endInit =
      s.assertReset.endInit := rfl

/-- Settles O28: ZEROIZE and reset overwrite these fields without reading them, with the values 0x00 and none. -/
theorem zeroizeAndResetLeaveNoSecret : Obligations.ZeroizeAndResetLeaveNoSecret := by
  intro s s' h
  refine ⟨?_, ?_, by simp, by simp, by simp, _, rfl, rfl, rfl, fun j => ⟨rfl, rfl, rfl⟩⟩
  · rw [h]
    exact execZeroize_forgets s ..
  · rw [h]
    exact assertReset_endInit_forgets s ..

end Sys2Proof.Machine
end

section
/-! Accesses of the window (20_memory.md R30, R32 to R34): which ones reach a register, and the one next
state of a read and of a write that reach it. -/

namespace Sys2Proof.Machine

/-! ## The alignment of registers -/

/-- R15: every register lies at a multiple of 4. -/
theorem regOffset_aligned (r : Reg) : regOffset r % 4 = 0 := by cases r <;> rfl

/-- R15: every multiple of 4 in the window is the offset of a register. -/
theorem exists_regOffset_eq {off : Nat} (hlt : off < 32) (hal : off % 4 = 0) : ∃ r, regOffset r = off := by
  have hoff : off = 0x00 ∨ off = 0x04 ∨ off = 0x08 ∨ off = 0x0C ∨ off = 0x10 ∨ off = 0x14 ∨ off = 0x18 ∨ off = 0x1C := by
    omega
  rcases hoff with rfl | rfl | rfl | rfl | rfl | rfl | rfl | rfl
  exacts [⟨.cmd, rfl⟩, ⟨.status, rfl⟩, ⟨.result, rfl⟩, ⟨.ctrl, rfl⟩, ⟨.info, rfl⟩, ⟨.rsvd14, rfl⟩, ⟨.rsvd18, rfl⟩,
    ⟨.rsvd1C, rfl⟩]

/-- Inside the window an access reaches a register or is a bad one. -/
theorem accessReg_inWindow {cfg : Config} {acc : Access} (hlo : cfg.base ≤ acc.addr) (hhi : acc.addr < cfg.base + 32) :
    accessReg cfg acc = .error .badAccess ∨ ∃ r, accessReg cfg acc = .ok r := by
  unfold accessReg
  rw [if_neg (by omega)]
  split
  · exact .inl rfl
  split
  · exact .inr ⟨_, rfl⟩
  · exact .inl rfl

/-- R30: what reaches a register is four bytes wide and aligned, so every other access is a bad one. -/
theorem accessReg_of_narrow_or_unaligned {cfg : Config} {acc : Access} (hlo : cfg.base ≤ acc.addr)
    (hhi : acc.addr < cfg.base + 32) (hbad : acc.bytes ≠ 4 ∨ (acc.addr - cfg.base) % 4 ≠ 0) :
    accessReg cfg acc = .error .badAccess := by
  rcases accessReg_inWindow hlo hhi with h | ⟨r, hr⟩
  · exact h
  · have hal := regOffset_aligned r
    simp [access_of_accessReg hr, regAccess, hal] at hbad

/-- R30: an aligned whole-word access of the window is the access to some register. -/
theorem exists_eq_regAccess {cfg : Config} {acc : Access} (hlo : cfg.base ≤ acc.addr) (hhi : acc.addr < cfg.base + 32)
    (hw : acc.bytes = 4) (hal : (acc.addr - cfg.base) % 4 = 0) : ∃ r, acc = regAccess cfg r := by
  obtain ⟨r, hr⟩ := exists_regOffset_eq (by omega) hal
  obtain ⟨addr, bytes⟩ := acc
  exact ⟨r, by simp only [regAccess, Access.mk.injEq] at *; omega⟩

/-! ## The host's step on the bus -/

/-- A read that reaches nothing is refused with the cause. -/
theorem step_read_of_error {s : State} {acc : Access} {name : Nat} {ops : List HostOp} {e : Refusal}
    (hn : s.HostNext (.read acc name) ops) (he : s.reach acc = .error e) : step s = .refused e := by
  simp [step_host hn, hostTurn, busRead, he]

/-- A write that reaches nothing is refused with the cause. -/
theorem step_write_of_error {s : State} {acc : Access} {w : Word} {ops : List HostOp} {e : Refusal}
    (hn : s.HostNext (.write acc w) ops) (he : s.reach acc = .error e) : step s = .refused e := by
  simp [step_host hn, hostTurn, busWrite, he]

/-- R34: a read of a register only gives the host its word. -/
theorem step_read_regAccess {s : State} {r : Reg} {name : Nat} {ops : List HostOp} (hr : s.resetIn = false)
    (hn : s.HostNext (.read (regAccess s.cfg r) name) ops) :
    step s = .next ((s.tick.setHost ops).record name (s.readReg r)) := by
  simp [step_host hn, hostTurn, busRead, reach_regAccess hr]

/-- A write of a register does what `writeReg` says. -/
theorem step_write_regAccess {s : State} {r : Reg} {w : Word} {ops : List HostOp} (hr : s.resetIn = false)
    (hn : s.HostNext (.write (regAccess s.cfg r) w) ops) :
    step s = .next ((s.tick.setHost ops).writeReg r w) := by
  simp [step_host hn, hostTurn, busWrite, reach_regAccess hr]

/-- What a register reads as does not depend on what the host has kept. -/
@[simp] theorem readReg_record (s : State) (name : Nat) (w : Word) (r : Reg) :
    (s.record name w).readReg r = s.readReg r := by cases r <;> rfl

/-- R34: a write of a read-only or reserved register is ignored. -/
theorem State.writeReg_of_readOnly (s : State) {r : Reg} (w : Word) (hcmd : r ≠ .cmd) (hctrl : r ≠ .ctrl) :
    s.writeReg r w = s := by
  cases r with
  | cmd | ctrl => contradiction
  | status | result | info | rsvd14 | rsvd18 | rsvd1C => rfl

/-- R33: when a CMD write is refused. -/
theorem State.accepts_eq_false_iff {s : State} :
    s.accepts = false ↔ s.busy = true ∨ s.err ≠ 0#4 ∨ s.ovr = true := by
  rw [← Bool.not_eq_true, State.accepts_iff, not_and_or, not_and_or, Bool.not_eq_false, Bool.not_eq_false]

/-! ## The obligations on accesses -/

/-- Settles O12: only the access to a register reaches one, and it is aligned and four bytes wide. -/
theorem onlyAlignedWordAccessesReachARegister : Obligations.OnlyAlignedWordAccessesReachARegister := by
  intro s acc hlo hhi hr
  refine ⟨fun hbad => ?_, fun hw hal => ?_⟩
  · have he : s.reach acc = .error .badAccess := by
      simp [State.reach, hr, accessReg_of_narrow_or_unaligned hlo hhi hbad]
    exact ⟨fun _ _ hn => step_read_of_error hn he, fun _ _ hn => step_write_of_error hn he⟩
  · obtain ⟨r, rfl⟩ := exists_eq_regAccess hlo hhi hw hal
    exact ⟨r, reach_regAccess hr r, rfl⟩

/-- Settles O8: the three flags decide between the two branches of a write of CMD, each one exact state. -/
theorem cmdWriteIsAcceptedOrRefused : Obligations.CmdWriteIsAcceptedOrRefused := by
  intro s w ops hn hr
  have hstep : step s = .next ((s.tick.setHost ops).writeCmd w) := step_write_regAccess hr hn
  refine ⟨fun hclear => ?_, fun hset => ?_⟩
  · have ha : (s.tick.setHost ops).accepts = true := State.accepts_iff.2 hclear
    rw [hstep, State.writeCmd_of_accepts ha]
    rfl
  · have ha : (s.tick.setHost ops).accepts = false := State.accepts_eq_false_iff.2 hset
    rw [hstep, State.writeCmd_of_not_accepts ha]
    rfl

/-- Settles O11: a read only moves the host on, so the next one finds the register as it was; the writes are
those of `writeReg`. -/
theorem readsHaveNoSideEffect : Obligations.ReadsHaveNoSideEffect := by
  intro s r ops hr
  refine ⟨fun name hn => step_read_regAccess hr hn, fun name name' hh ht => ?_, fun w hn hcmd hctrl => ?_,
    fun w hn => ?_⟩
  · have h1 := step_read_regAccess hr ⟨hh, ht.imp_right Nat.zero_lt_of_lt⟩
    set s1 := (s.tick.setHost (.read (regAccess s.cfg r) name' :: ops)).record name (s.readReg r) with hs1
    have hn2 : s1.HostNext (.read (regAccess s1.cfg r) name') ops := ⟨rfl, ht.imp_right Nat.sub_pos_of_lt⟩
    have h2 := step_read_regAccess (s := s1) hr hn2
    exact ⟨_, by rw [runSteps_next h1, runSteps_next h2, runSteps_zero], by simp [hs1]⟩
  · rw [step_write_regAccess hr hn, State.writeReg_of_readOnly _ w hcmd hctrl]
    rfl
  · have hstep : step s = .next ((s.tick.setHost ops).writeCtrl w) := step_write_regAccess hr hn
    rw [hstep, State.writeCtrl]
    split <;> rfl

end Sys2Proof.Machine
end

section
/-! The completion of an accepted command (20_memory.md R36): while its delay runs, no step but the assertion
of reset disturbs it, and when the delay has run out the next step completes it. -/

namespace Sys2Proof.Machine

/-! ## While the delay runs -/

/-- The word `w` is accepted and not yet completed, and the host will not assert reset. -/
structure State.Awaits (s : State) (w : Word) : Prop where
  status : s.StatusRules
  channel : s.ChannelRules
  pending : s.pending = some w
  noReset : HostOp.assertReset ∉ s.host

theorem State.Awaits.busy {s : State} {w : Word} (h : s.Awaits w) : s.busy = true :=
  h.channel.busy_eq_true_iff.2 (.inl (by simp [h.pending]))

theorem State.Awaits.started {s : State} {w : Word} (h : s.Awaits w) : s.initialising = false := by
  by_contra hi
  exact h.channel.not_both ⟨by simp [h.pending], by simpa using hi⟩

/-- R33, R34: while BUSY is set, no write of a register touches the pending command or its delay. -/
theorem writeReg_of_busy {s : State} (hb : s.busy = true) (r : Reg) (w : Word) :
    (s.writeReg r w).pending = s.pending ∧ (s.writeReg r w).delay = s.delay := by
  cases r with
  | cmd =>
    have hrefuse : s.writeReg .cmd w = s.refuse :=
      State.writeCmd_of_not_accepts (State.accepts_eq_false_iff.2 (.inl hb)) w
    simp [hrefuse]
  | ctrl => exact ⟨s.writeCtrl_pending w, s.writeCtrl_delay w⟩
  | status | result | info | rsvd14 | rsvd18 | rsvd1C => exact ⟨rfl, rfl⟩

/-- A step before the delay has run out leaves the command pending and takes one turn of its delay. -/
theorem State.Awaits.step_keeps {s t : State} {w : Word} (ha : s.Awaits w) (hd : 0 < s.delay) (h : step s = .next t) :
    t.Awaits w ∧ t.delay = s.delay - 1 := by
  have hs := step_statusRules ha.status ha.channel h
  have hc := step_channelRules ha.channel h
  have hnr := ha.noReset
  cases step_cases h with
  | initEnds _ h0 => omega
  | completes _ _ hr => exact absurd hr.due (by omega)
  | passes => exact ⟨⟨hs, hc, ha.pending, hnr⟩, rfl⟩
  | reads op ops ops' _ hn _ _ hops =>
    rw [hn.host, List.mem_cons, not_or] at hnr
    exact ⟨⟨hs, hc, ha.pending, by rcases hops with rfl | rfl | rfl <;> simp [hnr.2]⟩, rfl⟩
  | writes _ v ops r hn =>
    rw [hn.host, List.mem_cons, not_or] at hnr
    obtain ⟨hp, hdl⟩ := writeReg_of_busy (s := s.tick.setHost ops) ha.busy r v
    exact ⟨⟨hs, hc, hp.trans ha.pending, by simpa using hnr.2⟩, hdl⟩
  | asserts ops hn => simp [hn.host] at hnr
  | releases ops hn =>
    rw [hn.host, List.mem_cons, not_or] at hnr
    exact ⟨⟨hs, hc, ha.pending, hnr.2⟩, rfl⟩

/-- A run as long as the delay ends where the command is due. -/
theorem State.Awaits.runSteps_delay {n : Nat} {s u : State} {w : Word} (ha : s.Awaits w) (hd : s.delay = n)
    (h : runSteps n s = .next u) : u.Awaits w ∧ u.delay = 0 := by
  induction n generalizing s with
  | zero => cases h; exact ⟨ha, hd⟩
  | succ n ih =>
    rw [runSteps_succ] at h
    split at h
    next t ht =>
      obtain ⟨hat, hdt⟩ := ha.step_keeps (by omega) ht
      exact ih hat (by omega) h
    next => cases h
    next => cases h

/-- A host that cannot stop lets the whole delay run. -/
theorem State.Awaits.exists_runSteps_delay {n : Nat} {s : State} {w : Word} (ha : s.Awaits w) (hd : s.delay = n)
    (hg : s.HostGoesOn) : ∃ u, runSteps n s = .next u := by
  induction n generalizing s with
  | zero => exact ⟨s, rfl⟩
  | succ n ih =>
    obtain ⟨t, ht, hgt⟩ := step_hostGoesOn hg (.inr (by omega))
    obtain ⟨hat, hdt⟩ := ha.step_keeps (by omega) ht
    rw [runSteps_next ht]
    exact ih hat (by omega) hgt

/-! ## The completion -/

/-- A command ends with its error record, or with DONE set and ERR as it was. -/
theorem ExecCase.raised_or_done {s t : State} (h : ExecCase s t) :
    (∃ e info, t = s.raise e info) ∨ (t.done = true ∧ t.err = s.err) := by
  cases h with
  | raised e info => exact .inl ⟨e, info, rfl⟩
  | nothing | result | coefficient | point | cleared => exact .inr ⟨rfl, rfl⟩

/-- The completion of a word sets DONE, as the end of the command it decodes to, or takes an error. -/
theorem completeWord_raised_or_done (w : Word) (s : State) : ∃ t, completeWord w s = .next t ∧ ExecCase s t ∧
    ((∃ e info, t = s.raise e info) ∨ ∃ i, decode w = .ok i ∧ exec i s = .next t ∧ t.done = true ∧ t.err = s.err) := by
  obtain ⟨t, ht, hc⟩ := completeWord_cases w s
  refine ⟨t, ht, hc, hc.raised_or_done.elim .inl fun hdone => ?_⟩
  unfold completeWord at ht
  split at ht
  next i hi => exact .inr ⟨i, hi, ht, hdone⟩
  next => cases ht; exact .inl ⟨_, _, rfl⟩

/-- Settles O9: the delay runs down with the command undisturbed, and the step that is then due completes it. -/
theorem pendingCommandCompletes : Obligations.PendingCommandCompletes := by
  intro s w hinv hp hnr
  have ha : s.Awaits w := ⟨hinv.status, hinv.channel, hp, hnr⟩
  refine ⟨ha.exists_runSteps_delay rfl, fun u hu => ?_⟩
  obtain ⟨hau, hdu⟩ := ha.runSteps_delay rfl hu
  have hready : u.Ready w := ⟨hau.pending, hau.started, hdu⟩
  obtain ⟨t, ht, hcase, hend⟩ := completeWord_raised_or_done w u
  obtain ⟨hb, hpt, -⟩ := hcase.channel
  refine ⟨hready, t, (step_ready hready).trans ht, hb, hpt, ?_⟩
  rcases hend with ⟨e, info, rfl⟩ | ⟨i, hi, hexec, hdone, herr⟩
  · exact .inr ⟨hau.status.busy_notDone hau.busy, errCode_ne_zero e, rfl⟩
  · exact .inl ⟨i, hi, hexec, hdone, herr.trans (hau.status.busy_noErr hau.busy)⟩

end Sys2Proof.Machine
end

section
/-! The opcode map (30_encoding.md R46 to R50): a word decodes to a command exactly when it is the
command's encoding, hence exactly when it selects, by mask and match, the row with the command's mnemonic;
a word that selects no row fails with ILLEGAL_CMD. -/

namespace Sys2Proof

/-! ## The decoder reads encodings and nothing else -/

theorem decode_encode (i : Instr) : decode (encode i) = .ok i := by
  cases i <;> simp [decode, encode]

/-- The decoder answers a command only where it has checked the OP byte and the unused fields. -/
theorem encode_of_decode {w : Word} {i : Instr} (h : decode w = .ok i) : encode i = w := by
  cases i <;> simp [decode, ite_eq_iff] at h <;> simp [encode, mk_eq_iff, h]

theorem decode_eq_ok_iff (w : Word) (i : Instr) : decode w = .ok i ↔ encode i = w :=
  ⟨encode_of_decode, fun h => h ▸ decode_encode i⟩

/-! ## Masks, field by field -/

/-- R46: a mask compares the four fields one by one. -/
theorem and_eq_iff_fields (w k p : Word) : w &&& k = p ↔
    fieldOp w &&& fieldOp k = fieldOp p ∧ fieldA w &&& fieldA k = fieldA p ∧
      fieldB w &&& fieldB k = fieldB p ∧ fieldC w &&& fieldC k = fieldC p := by
  rw [← mk_fields (w &&& k), mk_eq_iff]
  simp only [fieldOp, fieldA, fieldB, fieldC, BitVec.extractLsb'_and]

@[simp] theorem and_ones (x : Byte) : x &&& 0xFF#8 = x := BitVec.and_allOnes

/-- The mask of a command without operands is the whole word. -/
theorem mk_eq_iff_mask (op : Byte) (w : Word) :
    Word.mk op 0 0 0 = w ↔ w &&& 0xFFFFFFFF#32 = Word.mk op 0 0 0 := by
  have hmask : 0xFFFFFFFF#32 = Word.mk 0xFF#8 0xFF#8 0xFF#8 0xFF#8 := rfl
  rw [hmask, and_eq_iff_fields, mk_eq_iff]
  simp [eq_comm]

/-- The mask of a command with the operand A leaves A out. -/
theorem mk_a_eq_iff_mask (op a : Byte) (w : Word) :
    Word.mk op a 0 0 = w ↔ w &&& 0xFF00FFFF#32 = Word.mk op 0 0 0 ∧ a = fieldA w := by
  have hmask : 0xFF00FFFF#32 = Word.mk 0xFF#8 0 0xFF#8 0xFF#8 := rfl
  rw [hmask, and_eq_iff_fields, mk_eq_iff]
  simp only [BitVec.ofNat_eq_ofNat, fieldOp_mk, fieldA_mk, fieldB_mk, fieldC_mk, and_ones, BitVec.and_zero, eq_comm]
  tauto

/-- The mask of a command with the operands A and B leaves both out. -/
theorem mk_ab_eq_iff_mask (op a b : Byte) (w : Word) :
    Word.mk op a b 0 = w ↔ w &&& 0xFF0000FF#32 = Word.mk op 0 0 0 ∧ a = fieldA w ∧ b = fieldB w := by
  have hmask : 0xFF0000FF#32 = Word.mk 0xFF#8 0 0 0xFF#8 := rfl
  rw [hmask, and_eq_iff_fields, mk_eq_iff]
  simp only [BitVec.ofNat_eq_ofNat, fieldOp_mk, fieldA_mk, fieldB_mk, fieldC_mk, and_ones, BitVec.and_zero, eq_comm]
  tauto

/-- The mask of PT_WR leaves all three operands out. -/
theorem mk_abc_eq_iff_mask (op a b c : Byte) (w : Word) :
    Word.mk op a b c = w ↔
      w &&& 0xFF000000#32 = Word.mk op 0 0 0 ∧ a = fieldA w ∧ b = fieldB w ∧ c = fieldC w := by
  have hmask : 0xFF000000#32 = Word.mk 0xFF#8 0 0 0 := rfl
  rw [hmask, and_eq_iff_fields, mk_eq_iff]
  simp [eq_comm]

/-! ## Rows -/

/-- Every mask covers all of OP, so a word has the OP byte of a row it selects. -/
theorem fieldOp_of_selects {r : OpcodeRow} (hr : r ∈ opcodeRows) {w : Word} (h : r.selects w = true) :
    fieldOp w = fieldOp r.pattern := by
  have hmask : ∀ r ∈ opcodeRows, fieldOp r.mask = 0xFF#8 := by decide
  have hop := ((and_eq_iff_fields w r.mask r.pattern).1 (beq_iff_eq.1 h)).1
  rwa [hmask r hr, and_ones] at hop

/-- No two rows have the same OP byte. -/
theorem opcodeRow_eq_of_fieldOp_eq :
    ∀ r ∈ opcodeRows, ∀ r' ∈ opcodeRows, fieldOp r.pattern = fieldOp r'.pattern → r = r' := by decide

/-- R46: "Because every mask covers all of OP, no word matches two rows." -/
theorem selects_unique {w : Word} : ∀ r ∈ opcodeRows, ∀ r' ∈ opcodeRows,
    r.selects w = true → r'.selects w = true → r = r' := fun r hr r' hr' h h' =>
  opcodeRow_eq_of_fieldOp_eq r hr r' hr' ((fieldOp_of_selects hr h).symm.trans (fieldOp_of_selects hr' h'))

/-- The word of a command selects the row with its mnemonic. -/
theorem exists_selects_encode (i : Instr) : Laws.EncodeSelectsRow.Statement i := by
  cases i with
  | nop => exact Laws.EncodeSelectsRow.nop
  | gfAdd a b => exact Laws.EncodeSelectsRow.gfAdd a b
  | gfMul a b => exact Laws.EncodeSelectsRow.gfMul a b
  | gfInv a => exact Laws.EncodeSelectsRow.gfInv a
  | gfDiv a b => exact Laws.EncodeSelectsRow.gfDiv a b
  | coefWr i v => exact Laws.EncodeSelectsRow.coefWr i v
  | polyEval x n => exact Laws.EncodeSelectsRow.polyEval x n
  | ptWr i x y => exact Laws.EncodeSelectsRow.ptWr i x y
  | interp0 k => exact Laws.EncodeSelectsRow.interp0 k
  | zeroize => exact Laws.EncodeSelectsRow.zeroize

/-- A word that selects a row is the word of that row's command with the word's own operand fields. -/
theorem exists_encode_of_selects {r : OpcodeRow} (hr : r ∈ opcodeRows) {w : Word} (h : r.selects w = true) :
    ∃ i, encode i = w := by
  replace h : w &&& r.mask = r.pattern := beq_iff_eq.1 h
  simp only [opcodeRows, List.mem_cons, List.not_mem_nil, or_false] at hr
  rcases hr with rfl | rfl | rfl | rfl | rfl | rfl | rfl | rfl | rfl | rfl
  · exact ⟨.nop, (mk_eq_iff_mask _ w).2 h⟩
  · exact ⟨.gfAdd _ _, (mk_ab_eq_iff_mask _ _ _ w).2 ⟨h, rfl, rfl⟩⟩
  · exact ⟨.gfMul _ _, (mk_ab_eq_iff_mask _ _ _ w).2 ⟨h, rfl, rfl⟩⟩
  · exact ⟨.gfInv _, (mk_a_eq_iff_mask _ _ w).2 ⟨h, rfl⟩⟩
  · exact ⟨.gfDiv _ _, (mk_ab_eq_iff_mask _ _ _ w).2 ⟨h, rfl, rfl⟩⟩
  · exact ⟨.coefWr _ _, (mk_ab_eq_iff_mask _ _ _ w).2 ⟨h, rfl, rfl⟩⟩
  · exact ⟨.polyEval _ _, (mk_ab_eq_iff_mask _ _ _ w).2 ⟨h, rfl, rfl⟩⟩
  · exact ⟨.ptWr _ _ _, (mk_abc_eq_iff_mask _ _ _ _ w).2 ⟨h, rfl, rfl, rfl⟩⟩
  · exact ⟨.interp0 _, (mk_a_eq_iff_mask _ _ w).2 ⟨h, rfl⟩⟩
  · exact ⟨.zeroize, (mk_eq_iff_mask _ w).2 h⟩

/-- R48: the words that the decoder rejects are those that select no row. -/
theorem exists_decode_error_iff (w : Word) :
    (∃ e, decode w = .error e) ↔ ∀ r ∈ opcodeRows, r.selects w = false := by
  constructor
  · rintro ⟨e, he⟩ r hr
    refine Bool.eq_false_iff.2 fun hsel => ?_
    obtain ⟨i, hi⟩ := exists_encode_of_selects hr hsel
    rw [(decode_eq_ok_iff w i).2 hi] at he
    cases he
  · intro hnone
    cases hd : decode w with
    | error e => exact ⟨e, rfl⟩
    | ok i =>
      obtain ⟨r, hr, -, hsel⟩ := exists_selects_encode i
      rw [encode_of_decode hd, hnone r hr] at hsel
      cases hsel

/-- Settles O3: the row of each command is the mask lemma of its operand fields. -/
theorem opcodeMapGivesEachCommand : Obligations.OpcodeMapGivesEachCommand := by
  intro w
  simp only [decode_eq_ok_iff]
  exact ⟨mk_eq_iff_mask _ w,
    fun a b => mk_ab_eq_iff_mask _ a b w,
    fun a b => mk_ab_eq_iff_mask _ a b w,
    fun a => mk_a_eq_iff_mask _ a w,
    fun a b => mk_ab_eq_iff_mask _ a b w,
    fun i v => mk_ab_eq_iff_mask _ i v w,
    fun x n => mk_ab_eq_iff_mask _ x n w,
    fun i x y => mk_abc_eq_iff_mask _ i x y w,
    fun k => mk_a_eq_iff_mask _ k w,
    mk_eq_iff_mask _ w,
    selects_unique⟩

/-! ## The step at a due word -/

namespace Machine

/-- R50: a due word that decodes to a command runs it. -/
theorem step_of_decode_ok {s : State} {w : Word} {i : Instr} (hr : s.Ready w) (hd : decode w = .ok i) :
    step s = exec i s := by
  rw [step_ready hr, completeWord, hd]

/-- R48: a due word that decodes to none takes ILLEGAL_CMD with its OP byte. -/
theorem step_of_decode_error {s : State} {w : Word} {e : DecodeError} (hr : s.Ready w)
    (hd : decode w = .error e) : step s = .next (s.raise .illegalCmd (fieldOp w)) := by
  rw [step_ready hr, completeWord, hd]

/-- Settles O4: an OP byte that no row has, or that has its row elsewhere, leaves no row to select. -/
theorem illegalWordsFailWithTheirOpcode : Obligations.IllegalWordsFailWithTheirOpcode := by
  intro w
  refine ⟨exists_decode_error_iff w, fun hop => ?_, fun r hr hop hne => ?_, ?_⟩
  · have hlisted : ∀ r ∈ opcodeRows, fieldOp r.pattern ∈
        [0x00#8, 0x01#8, 0x02#8, 0x03#8, 0x04#8, 0x10#8, 0x11#8, 0x20#8, 0x21#8, 0x30#8] := by decide
    refine (exists_decode_error_iff w).2 fun r hr => Bool.eq_false_iff.2 fun hsel => hop ?_
    have hfield : w.extractLsb' 24 8 = fieldOp r.pattern := fieldOp_of_selects hr hsel
    exact hfield ▸ hlisted r hr
  · refine (exists_decode_error_iff w).2 fun r' hr' => Bool.eq_false_iff.2 fun hsel => ?_
    have hsame : r = r' := opcodeRow_eq_of_fieldOp_eq r hr r' hr' (hop.symm.trans (fieldOp_of_selects hr' hsel))
    exact hne (beq_iff_eq.1 (hsame ▸ hsel))
  · rintro ⟨e, he⟩ s
    exact ⟨fun ha => State.writeCmd_of_accepts ha w, fun hr => step_of_decode_error hr he⟩

/-- Settles O7: the due step is the completion, and the word's row is the one of the command it encodes. -/
theorem stepRunsTheDecodedCommand : Obligations.StepRunsTheDecodedCommand := by
  intro s w hr
  refine ⟨?_, fun i hi => ⟨step_of_decode_ok hr hi, encode_of_decode hi, ?_⟩, fun e he =>
    ⟨(exists_decode_error_iff w).1 ⟨e, he⟩, step_of_decode_error hr he⟩⟩
  · cases decode w with
    | ok i => exact .inl ⟨i, rfl⟩
    | error e => exact .inr ⟨e, rfl⟩
  · obtain ⟨r, hmem, hname, hsel⟩ := exists_selects_encode i
    exact ⟨r, hmem, encode_of_decode hi ▸ hsel, hname⟩

end Machine
end Sys2Proof
end

section
/-! Division in the field (40_field_arithmetic.md R57, R58): modulo a legal polynomial every non-zero byte
has the one inverse a^254, so `gfDiv` solves r · b = a, and every law of `gfInv` and `gfDiv` is that
equation read again. -/

namespace Sys2Proof.Machine

/-! ## For every P(x) -/

theorem gfInv_eq_gfPow (p : BitVec 9) (a : Byte) : gfInv p a = gfPow p a 254 := by
  rw [← gfPow_one p a]
  simp only [gfInv, ← gfPow_add, ← gfPow_mul]

@[simp] theorem gfInv_one (p : BitVec 9) : gfInv p 0x01#8 = 0x01#8 := by
  rw [gfInv_eq_gfPow, one_gfPow]

@[simp] theorem gfDiv_one (p : BitVec 9) (a : Byte) : gfDiv p a 0x01#8 = a := by
  rw [gfDiv, gfInv_one, gfMul_one]

@[simp] theorem zero_gfDiv (p : BitVec 9) (b : Byte) : gfDiv p 0x00#8 b = 0x00#8 := zero_gfMul p _

/-- R54: `xtime` is the product with the element x. -/
theorem gfMul_two (p : BitVec 9) (a : Byte) : gfMul p a 0x02#8 = xtime p a := gfMul_bit p a 1 (by decide)

/-- Below x^7 the product with x is not reduced. -/
theorem xtime_of_lt (p : BitVec 9) {a : Byte} (ha : a.toNat < 0x80) : xtime p a = a <<< 1 := by
  have h7 : a.getLsbD 7 = false := Nat.testBit_lt_two_pow ha
  rw [xtime, h7]
  simp

/-- x · x^7 is x^8, which reduces to the low byte of P(x). -/
theorem two_gfMul_0x80 (p : BitVec 9) : gfMul p 0x02#8 0x80#8 = p.extractLsb' 0 8 := by
  rw [gfMul_comm, gfMul_two]
  simp [xtime]

/-! ## For a legal P(x) -/

section Legal
variable {p : BitVec 9} (hp : p ∈ Config.legalPolys)
include hp

theorem gfMul_gfInv {a : Byte} (ha : a ≠ 0x00#8) : gfMul p a (gfInv p a) = 0x01#8 := by
  rw [gfInv_eq_gfPow, gfMul_comm]
  exact gfPow_255 hp ha

/-- R58: the quotient is the one byte whose product with the divisor is the dividend. -/
theorem gfMul_eq_iff_eq_gfDiv {b : Byte} (hb : b ≠ 0x00#8) (a r : Byte) : gfMul p r b = a ↔ r = gfDiv p a b := by
  constructor
  · rintro rfl
    rw [gfDiv, gfMul_assoc, gfMul_gfInv hp hb, gfMul_one]
  · rintro rfl
    rw [gfDiv, gfMul_assoc, gfMul_comm p (gfInv p b), gfMul_gfInv hp hb, gfMul_one]

theorem gfMul_gfDiv (a : Byte) {b : Byte} (hb : b ≠ 0x00#8) : gfMul p (gfDiv p a b) b = a :=
  (gfMul_eq_iff_eq_gfDiv hp hb a _).2 rfl

/-- R57: the inverse is unique. -/
theorem gfMul_eq_one_iff {a : Byte} (ha : a ≠ 0x00#8) (b : Byte) : gfMul p a b = 0x01#8 ↔ b = gfInv p a := by
  rw [gfMul_comm, gfMul_eq_iff_eq_gfDiv hp ha, gfDiv, one_gfMul]

theorem gfDiv_self {b : Byte} (hb : b ≠ 0x00#8) : gfDiv p b b = 0x01#8 := gfMul_gfInv hp hb

theorem gfInv_ne_zero {a : Byte} (ha : a ≠ 0x00#8) : gfInv p a ≠ 0x00#8 := by
  intro h0
  have h1 := gfMul_gfInv hp ha
  rw [h0, gfMul_zero] at h1
  exact absurd h1 (by decide)

/-- `a` is the byte whose product with its inverse is 1. -/
theorem gfInv_gfInv {a : Byte} (ha : a ≠ 0x00#8) : gfInv p (gfInv p a) = a := by
  refine ((gfMul_eq_one_iff hp (gfInv_ne_zero hp ha) a).1 ?_).symm
  rw [gfMul_comm, gfMul_gfInv hp ha]

theorem gfMul_eq_zero_iff (a b : Byte) : gfMul p a b = 0x00#8 ↔ a = 0x00#8 ∨ b = 0x00#8 := by
  constructor
  · intro h
    by_contra hne
    obtain ⟨ha, hb⟩ := not_or.1 hne
    exact gfMul_ne_zero hp ha hb h
  · rintro (rfl | rfl)
    · exact zero_gfMul p b
    · exact gfMul_zero p a

theorem gfDiv_eq_zero_iff (a : Byte) {b : Byte} (hb : b ≠ 0x00#8) :
    gfDiv p a b = 0x00#8 ↔ a = 0x00#8 := by
  rw [gfDiv, gfMul_eq_zero_iff hp, or_iff_left (gfInv_ne_zero hp hb)]

end Legal

/-- Settles O48: the laws of addition are those of exclusive OR, those of the product hold for every P(x),
and those of the inverse and the quotient follow from the equation that the quotient solves. -/
theorem fieldLawsHold : Obligations.FieldLawsHold := by
  intro p hp a b c
  exact ⟨BitVec.xor_self, BitVec.xor_zero, BitVec.xor_comm a b, BitVec.xor_assoc a b c,
    gfMul_one p a, gfMul_zero p a, gfMul_comm p a b, gfMul_assoc p a b c, gfMul_xor_right p a b c,
    gfMul_eq_zero_iff hp a b, fun ha => ⟨gfInv_ne_zero hp ha, gfInv_gfInv hp ha⟩, gfInv_one p,
    fun hb => ⟨gfDiv_eq_zero_iff hp a hb, gfDiv_one p a, gfDiv_self hp hb, gfMul_gfDiv hp a hb⟩,
    fun ha => by rw [gfMul_comm, gfMul_two, xtime_of_lt p ha], two_gfMul_0x80 p⟩

end Sys2Proof.Machine
end

section
/-! Division with remainder of polynomials over GF(2) (40_field_arithmetic.md R55): for every P(x) of
degree 8 it has a quotient and exactly one remainder, and that remainder of a product is `gfMul`. -/

namespace Sys2Proof.Machine

/-- P(x) is x^8 and its low byte. -/
theorem setWidth_eq_xor_low {p : BitVec 9} (hp : p.getLsbD 8 = true) :
    p.setWidth 16 = 0x0100#16 ^^^ (p.extractLsb' 0 8).setWidth 16 := by
  revert p; decide

/-- Multiples of P(x) have the remainder 0: x^8 and the low byte of P(x) have the same one, and it stays the
same under a product with x^n. -/
theorem polyRem_polyProduct_self {p : BitVec 9} (hp : p.getLsbD 8 = true) (q : Byte) :
    polyRem p (polyProduct (p.setWidth 16) q) = 0x00#8 := by
  have linear : Linear fun q => polyRem p (polyProduct 0x0100#16 q) := fun q q' => by
    simp only [polyProduct_xor_right, polyRem_xor]
  have top : polyRem p (polyProduct 0x0100#16 q) = gfMul p (p.extractLsb' 0 8) q := by
    refine Linear.ext linear (gfMul_xor_right p _) (fun n hn => ?_) q
    have hshift : 0x0100#16 <<< n = 0x0001#16 <<< (n + 8) := by rw [Nat.add_comm, BitVec.shiftLeft_add]; rfl
    rw [polyProduct_bit _ hn, hshift, polyRem_bit p (by omega), gfMul_bit p _ n hn, xtimes_add, xtimes_one_eight]
  rw [setWidth_eq_xor_low hp, polyProduct_xor_left, polyRem_xor, top, polyRem_polyProduct, BitVec.xor_self]

@[simp] theorem polyRem_setWidth (p : BitVec 9) (r : Byte) : polyRem p (r.setWidth 16) = r := by
  have hone : polyProduct (r.setWidth 16) 0x01#8 = r.setWidth 16 := by
    simpa using polyProduct_bit (r.setWidth 16) (n := 0) (by decide)
  rw [← hone, polyRem_polyProduct, gfMul_one]

/-- A polynomial of degree below 8 + n has a quotient: where the coefficient of x^(8 + m) is set, the
division takes P(x) · x^m away. -/
theorem exists_quotient {p : BitVec 9} (hp : p.getLsbD 8 = true) {n : Nat} (hn : n ≤ 8) (w : BitVec 16)
    (hw : ∀ i, 8 + n ≤ i → w.getLsbD i = false) :
    ∃ q r : Byte, w = polyProduct (p.setWidth 16) q ^^^ r.setWidth 16 := by
  induction n generalizing w with
  | zero =>
    refine ⟨0x00#8, w.setWidth 8, BitVec.eq_of_getLsbD_eq fun i hi => ?_⟩
    have hzero : polyProduct (p.setWidth 16) 0x00#8 = 0#16 := by simp [polyProduct]
    by_cases h8 : i < 8
    · simp [hzero, h8, hi]
    · simp [hzero, BitVec.getLsbD_setWidth, h8, hw i (by omega)]
  | succ m ih =>
    cases hbit : w.getLsbD (8 + m) with
    | false =>
      refine ih (by omega) w fun i hi => ?_
      obtain rfl | hlt := hi.eq_or_lt
      · exact hbit
      · exact hw i hlt
    | true =>
      have hlow : ∀ i, 8 + m ≤ i → (w ^^^ p.setWidth 16 <<< m).getLsbD i = false := fun i hi => by
        rw [BitVec.getLsbD_xor, BitVec.getLsbD_shiftLeft, BitVec.getLsbD_setWidth]
        obtain rfl | hlt := hi.eq_or_lt
        · have hlt : 8 + m < 16 := by omega
          rw [hbit, Nat.add_sub_cancel, hp]
          simp [hlt]
        · simp [hw i hlt, BitVec.getLsbD_of_ge p (i - m) (by omega)]
      obtain ⟨q, r, hqr⟩ := ih (by omega) _ hlow
      refine ⟨q ^^^ 0x01#8 <<< m, r, ?_⟩
      calc w = (w ^^^ p.setWidth 16 <<< m) ^^^ p.setWidth 16 <<< m := by
            rw [BitVec.xor_assoc, BitVec.xor_self, BitVec.xor_zero]
        _ = polyProduct (p.setWidth 16) (q ^^^ 0x01#8 <<< m) ^^^ r.setWidth 16 := by
            rw [hqr, polyProduct_xor_right, polyProduct_bit _ (by omega)]
            ac_rfl

/-- R55: the remainder of the product exists, and it is the byte that the bit-serial loop computes. -/
theorem isProductMod_iff {p : BitVec 9} (hp : p.getLsbD 8 = true) (a b r : Byte) :
    IsProductMod p a b r ↔ r = gfMul p a b := by
  have unique : ∀ q r' : Byte, polyProduct (a.setWidth 16) b = polyProduct (p.setWidth 16) q ^^^ r'.setWidth 16 →
      r' = gfMul p a b := fun q r' hq => by
    rw [← polyRem_polyProduct, hq, polyRem_xor, polyRem_polyProduct_self hp, polyRem_setWidth, BitVec.zero_xor]
  constructor
  · rintro ⟨q, hq⟩
    exact unique q r hq
  · rintro rfl
    obtain ⟨q, r, hqr⟩ := exists_quotient hp le_rfl _ fun i hi => BitVec.getLsbD_of_ge _ i hi
    exact ⟨q, unique q r hqr ▸ hqr⟩

/-- Settles O46: the loop computes the one remainder of the product, and the product with x is one turn of `xtime`. -/
theorem gfMulIsThePolynomialProduct : Obligations.GfMulIsThePolynomialProduct := by
  intro p a b hp
  exact ⟨(isProductMod_iff hp a b _).2 rfl, fun r => (isProductMod_iff hp a b r).1, (gfMul_two p a).symm, rfl⟩

end Sys2Proof.Machine
end

section
/-! The tables of a LOG_TABLE core (10_state.md R25, 40_field_arithmetic.md R56, R57): with a primitive
GEN = g, EXP holds g^n for every n modulo 255 and LOG the exponent below 255 of each non-zero byte. -/

namespace Sys2Proof.Machine

theorem placeOf_eq_idxOf (v : Byte) (l : List Byte) : placeOf v l = l.idxOf v := by
  induction l with
  | nil => rfl
  | cons u us ih =>
    by_cases h : u = v
    · rw [List.idxOf_cons_eq us h, placeOf, if_pos h]
    · rw [List.idxOf_cons_ne us h, placeOf, if_neg h, ih]

theorem expList_eq (p : BitVec 9) (g : Byte) : expList p g = (List.range' 0 255).map (gfPow p g) :=
  gfOrbit_gfPow p g 255 0

section Primitive
variable {p : BitVec 9} {g : Byte} (hg : isPrimitive p g = true)
include hg

theorem gfPow_mod_255 (n : Nat) : gfPow p g (n % 255) = gfPow p g n := by
  rw [← (isPrimitive_iff_orderOf p g).1 hg]
  exact @pow_mod_orderOf Byte (gfMonoid p).toMonoid g n

theorem expList_nodup : (expList p g).Nodup := by
  rw [expList_eq]
  refine List.Nodup.map_on (fun m hm n hn h => ?_) List.nodup_range'
  have inj := @pow_injOn_Iio_orderOf Byte (gfMonoid p).toMonoid g
  rw [(isPrimitive_iff_orderOf p g).1 hg] at inj
  exact inj (by simpa using hm) (by simpa using hn) h

/-- R25: LOG[g^k] = k. -/
theorem placeOf_gfPow {k : Nat} (hk : k < 255) : placeOf (gfPow p g k) (expList p g) = k := by
  have hlen : k < (expList p g).length := by simpa [expList] using hk
  have hget : (expList p g)[k] = gfPow p g k := by simp [expList_eq]
  rw [placeOf_eq_idxOf, ← hget]
  exact List.get_idxOf (expList_nodup hg) ⟨k, hlen⟩

theorem readLog_gfPow {k : Nat} (hk : k < 255) : readLog (logTable p g) (gfPow p g k) = some k := by
  have hne := gfPow_ne_zero_of_isPrimitive hg k
  have hplace := placeOf_gfPow hg hk
  generalize gfPow p g k = v at hne hplace ⊢
  have hpos : 0 < v.toNat := BitVec.toNat_pos_of_ne_zero hne
  have hv : v.toNat - 1 < 255 := by omega
  have hentry : (logTable p g).read v = BitVec.ofNat 8 k := by
    rw [logTable, Memory.read_ofBytes _ 1 (v.toNat - 1) v (by omega)]
    simp [hv, Nat.sub_add_cancel hpos, hplace]
  rw [readLog, if_neg hne, hentry, BitVec.toNat_ofNat, Nat.mod_eq_of_lt (by omega)]

/-- R25: EXP read at n modulo 255 is g^n. -/
theorem readExp_expTable (n : Nat) : readExp (expTable p g) n = gfPow p g n := by
  have hn : n % 255 < 255 := Nat.mod_lt n (by decide)
  rw [readExp, expTable, Memory.read_ofBytes _ 0 (n % 255) _ (by simp; omega), expList, ← gfPow_mod_255 hg n]
  exact (gfOrbit_getD p g 255 _ 0 hn).trans (by rw [Nat.zero_add])

/-- R56: products become sums of exponents. -/
theorem tableMul_eq_gfMul (a b : Byte) : tableMul (expTable p g) (logTable p g) a b = gfMul p a b := by
  by_cases ha : a = 0x00#8
  · simp [tableMul, readLog, ha]
  by_cases hb : b = 0x00#8
  · simp [tableMul, readLog, hb]
  obtain ⟨j, hj, rfl⟩ := exists_gfPow_eq hg ha
  obtain ⟨k, hk, rfl⟩ := exists_gfPow_eq hg hb
  rw [tableMul, readLog_gfPow hg hj, readLog_gfPow hg hk]
  exact (readExp_expTable hg _).trans (gfPow_add p g j k)

/-- R57: the inverse of g^k is g^(255 - k), since g^255 = 1. -/
theorem gfMul_tableInv {a : Byte} (ha : a ≠ 0x00#8) :
    ∃ b, tableInv (expTable p g) (logTable p g) a = some b ∧ gfMul p a b = 0x01#8 := by
  obtain ⟨k, hk, rfl⟩ := exists_gfPow_eq hg ha
  refine ⟨gfPow p g (255 - k), ?_, ?_⟩
  · rw [tableInv, readLog_gfPow hg hk, Option.map_some, readExp_expTable hg]
  · rw [← gfPow_add, show k + (255 - k) = 255 by omega, ((isPrimitive_iff_powers p g).1 hg).1]

end Primitive

/-- R6, R25: the tables of a core that has been initialised are those of a primitive GEN. -/
theorem State.Inv.tables_of_logTable {s : State} {g : Byte} {st : TableStore} (h : s.Inv)
    (hi : s.initialising = false) (hm : s.cfg.mulImpl = .logTable g st) :
    s.expTab = expTable s.cfg.fieldPoly g ∧ s.logTab = logTable s.cfg.fieldPoly g ∧
      isPrimitive s.cfg.fieldPoly g = true := by
  obtain ⟨hexp, hlog⟩ := h.tables (.inl hi)
  have hgen := s.cfg.gen_legal
  rw [builtExp, hm] at hexp
  rw [builtLog, hm] at hlog
  rw [hm] at hgen
  exact ⟨hexp, hlog, hgen⟩

end Sys2Proof.Machine
end

section
/-! MUL_IMPL shows nowhere (40_field_arithmetic.md R56, R57): under the invariant the tables give the bytes of
`gfMul` and `gfInv`, and the meanings of the commands read no other parameter than FIELD_POLY. -/

namespace Sys2Proof.Machine

/-- An answer with the parameters of the next state exchanged. -/
def outcomeWithCfg (cfg : Config) : Host.Outcome State Fault Refusal → Host.Outcome State Fault Refusal
  | .next t => .next { t with cfg := cfg }
  | .fault r => .fault r
  | .refused r => .refused r

/-- A command on a core with other parameters but the same FIELD_POLY does the same to the rest of the state. -/
theorem exec_of_fieldPoly_eq {s : State} {cfg : Config} (hp : cfg.fieldPoly = s.cfg.fieldPoly) (i : Instr) :
    exec i { s with cfg := cfg } = outcomeWithCfg cfg (exec i s) := by
  cases i with
  | nop | gfAdd | coefWr | ptWr | zeroize => rfl
  | gfMul a b =>
    simp only [exec, execGfMul, hp]
    rfl
  | gfInv a =>
    simp only [exec, execGfInv, hp]
    split <;> rfl
  | gfDiv a b =>
    simp only [exec, execGfDiv, hp]
    split <;> rfl
  | polyEval x n =>
    simp only [exec, execPolyEval, hp]
    split
    · rfl
    split <;> rfl
  | interp0 k =>
    simp only [exec, execInterp0, hp]
    split
    · rfl
    split
    · rfl
    split <;> rfl

/-- Settles O50: under the invariant the tables are those of a primitive GEN, and a command reads FIELD_POLY alone. -/
theorem tableProductIsTheSerialProduct : Obligations.TableProductIsTheSerialProduct := by
  refine ⟨fun s g st hinv hi hm a b => ?_, fun i s t cfg hp h => ?_⟩
  · obtain ⟨hexp, hlog, hg⟩ := hinv.tables_of_logTable hi hm
    rw [hexp, hlog, tableMul_eq_gfMul hg]
  · rw [exec_of_fieldPoly_eq hp i, h]
    rfl

/-- Settles O49: the tables give a byte whose product with the operand is 1, which is the inverse. -/
theorem inverseHasItsThreeForms : Obligations.InverseHasItsThreeForms := by
  refine ⟨fun p hp a ha => ⟨gfMul_gfInv hp ha, fun b => (gfMul_eq_one_iff hp ha b).1, gfInv_eq_gfPow p a⟩,
    fun s g st hinv hi hm a => ?_, fun s a => ⟨rfl, rfl⟩⟩
  obtain ⟨hexp, hlog, hg⟩ := hinv.tables_of_logTable hi hm
  rw [hexp, hlog]
  split
  · next ha => rw [ha]; rfl
  · next ha =>
    obtain ⟨b, htab, hb⟩ := gfMul_tableInv hg ha
    rw [htab, (gfMul_eq_one_iff s.cfg.poly_legal ha b).1 hb]

end Sys2Proof.Machine
end

section
/-! The commands GF_ADD, GF_MUL, GF_INV and GF_DIV (40_field_arithmetic.md R60 to R63): decode, illegal words,
and the completion with the byte that the field functions give. -/

namespace Sys2Proof.Machine

/-- R48: a due word with OP byte `op` that does not decode takes ILLEGAL_CMD(op). -/
theorem step_of_decode_mk_error {s : State} {op a b c : Byte} {e : DecodeError} (hr : s.Ready (Word.mk op a b c))
    (hd : decode (Word.mk op a b c) = .error e) : step s = .next (s.raise .illegalCmd op) := by
  rw [step_of_decode_error hr hd, fieldOp_mk]

theorem exec_gfInv_of_ne_zero {a : Byte} (ha : a ≠ 0x00#8) (s : State) :
    exec (.gfInv a) s = .next (s.setRes (gfInv s.cfg.fieldPoly a)).succeed := if_neg ha

theorem exec_gfDiv_of_ne_zero (a : Byte) {b : Byte} (hb : b ≠ 0x00#8) (s : State) :
    exec (.gfDiv a b) s = .next (s.setRes (gfDiv s.cfg.fieldPoly a b)).succeed := if_neg hb

/-- Settles O35: by R56 and R55 the result is the remainder of the product. -/
theorem gfMulGivesTheProduct : Obligations.GfMulGivesTheProduct := by
  intro a b s
  refine ⟨decode_encode (.gfMul a b),
    fun c hc hr => step_of_decode_mk_error hr (e := .unusedFieldNonZero 0x02#8) (by simp [decode, hc]),
    ⟨gfMul s.cfg.fieldPoly a b, rfl, ?_, ?_, ?_, ?_, ?_, ?_⟩, rfl⟩
  · exact (isProductMod_iff (bit8_of_mem_legalPolys _ s.cfg.poly_legal) a b _).2 rfl
  · exact (gfMul_eq_zero_iff s.cfg.poly_legal a b).2
  · rintro rfl
    exact one_gfMul _ b
  · rintro rfl rfl
    exact two_gfMul_0x80 _
  · rintro rfl rfl hp
    rw [hp]
    decide
  · rintro rfl rfl hp
    rw [hp]
    decide

/-- Settles O36: the result is the one solution of a · r = 1. -/
theorem gfInvGivesTheInverse : Obligations.GfInvGivesTheInverse := by
  intro a s
  have hp := s.cfg.poly_legal
  refine ⟨decode_encode (.gfInv a),
    fun b c h hr => step_of_decode_mk_error hr (e := .unusedFieldNonZero 0x03#8) (by simp [decode, not_and_or.2 h]),
    fun ha => ⟨gfInv s.cfg.fieldPoly a, exec_gfInv_of_ne_zero ha s, gfMul_gfInv hp ha,
      fun r' => (gfMul_eq_one_iff hp ha r').1, ?_, ?_⟩, ?_, rfl⟩
  · rintro rfl
    exact gfInv_one _
  · rintro rfl hpoly
    refine ((gfMul_eq_one_iff hp ha _).1 ?_).symm
    rw [hpoly]
    decide
  · rintro rfl
    rfl

/-- Settles O37: the result is the one solution of r · b = a. -/
theorem gfDivGivesTheQuotient : Obligations.GfDivGivesTheQuotient := by
  intro a b s
  have hp := s.cfg.poly_legal
  refine ⟨decode_encode (.gfDiv a b),
    fun c hc hr => step_of_decode_mk_error hr (e := .unusedFieldNonZero 0x04#8) (by simp [decode, hc]),
    fun hb => ⟨gfDiv s.cfg.fieldPoly a b, exec_gfDiv_of_ne_zero a hb s, rfl, gfMul_gfDiv hp a hb,
      fun r' => (gfMul_eq_iff_eq_gfDiv hp hb a r').1, ?_, ?_, ?_, ?_⟩, ?_, rfl⟩
  · rintro rfl
    exact zero_gfDiv _ b
  · rintro rfl
    exact gfDiv_one _ a
  · rintro rfl
    exact gfDiv_self hp hb
  · rintro rfl rfl hpoly
    refine ((gfMul_eq_iff_eq_gfDiv hp hb _ _).1 ?_).symm
    rw [hpoly]
    decide
  · rintro rfl
    rfl

/-- Settles O34: addition is exclusive OR, bit by bit. -/
theorem gfAddGivesTheXor : Obligations.GfAddGivesTheXor := by
  intro a b s
  refine ⟨decode_encode (.gfAdd a b),
    fun c hc hr => step_of_decode_mk_error hr (e := .unusedFieldNonZero 0x01#8) (by simp [decode, hc]),
    ⟨gfAdd a b, rfl, fun n => BitVec.getLsbD_xor, ?_, ?_, ?_⟩, rfl⟩
  · rintro rfl
    exact BitVec.xor_self
  · rintro rfl
    exact BitVec.xor_zero
  · rintro rfl rfl
    rfl

end Sys2Proof.Machine
end

section
/-! The value of a polynomial (41_polynomial.md R65): the Horner loop gives the sum of COEF[i]·x^i for every
P(x), and so it depends on the coefficients below the count alone. -/

namespace Sys2Proof.Machine

/-- The loop from the accumulator `r`: each turn still to come multiplies `r` by x once. -/
theorem hornerLoop_eq (p : BitVec 9) (coef : Memory) (x : Byte) (n : Nat) (r : Byte) :
    hornerLoop p coef x n r = gfAdd (gfMul p r (gfPow p x n)) (polyValue p coef x n) := by
  induction n generalizing r with
  | zero => simp [hornerLoop, polyValue, gfPow, gfAdd]
  | succ n ih =>
    have hpow : gfMul p (gfMul p r x) (gfPow p x n) = gfMul p r (gfPow p x (n + 1)) := by
      rw [gfMul_assoc, gfMul_comm p x, gfPow]
    rw [hornerLoop, ih, polyValue]
    simp only [gfAdd, gfMul_xor_left, hpow]
    ac_rfl

theorem gfHorner_eq_polyValue (p : BitVec 9) (coef : Memory) (n : Nat) (x : Byte) :
    gfHorner p coef n x = polyValue p coef x n := by
  rw [gfHorner, hornerLoop_eq, zero_gfMul, gfAdd, BitVec.zero_xor]

/-- Settles O39, by induction on the number of turns with the accumulator free. -/
theorem hornerComputesThePolynomial : Obligations.HornerComputesThePolynomial :=
  fun p _ coef n x => gfHorner_eq_polyValue p coef n x

/-- R67 (b): the entries at `n` and above are not read. -/
theorem polyValue_congr {m m' : Memory} {n : Nat} (h : ∀ i, i < n → m.entry i = m'.entry i) (p : BitVec 9)
    (x : Byte) : polyValue p m x n = polyValue p m' x n := by
  induction n with
  | zero => rfl
  | succ n ih => rw [polyValue, polyValue, ih fun i hi => h i (Nat.lt_succ_of_lt hi), h n n.lt_succ_self]

/-- R67 (d). -/
theorem polyValue_two (p : BitVec 9) (m : Memory) (x : Byte) :
    polyValue p m x 2 = gfAdd (m.entry 0) (gfMul p (m.entry 1) x) := by
  rw [polyValue, gfPow_one]
  simp [polyValue, gfPow, gfAdd]

/-- At x = 1 the value is the sum of the coefficients. -/
theorem polyValue_one (p : BitVec 9) (m : Memory) (n : Nat) :
    polyValue p m 0x01#8 n = (List.range n).foldl (fun acc i => acc ^^^ m.entry i) 0x00#8 := by
  induction n with
  | zero => rfl
  | succ n ih => rw [polyValue, ih, one_gfPow, gfMul_one, List.range_succ, List.foldl_concat, gfAdd]

theorem Memory.entry_write_of_lt (m : Memory) {i : Byte} (v : Byte) {j : Nat} (hj : j < i.toNat) :
    (m.write i v).entry j = m.entry j := by
  refine m.read_write_other v fun h => ?_
  have hval : (BitVec.ofNat 8 j).toNat = j := Nat.mod_eq_of_lt (hj.trans i.isLt)
  rw [h] at hval
  omega

end Sys2Proof.Machine
end

section
/-! The commands COEF_WR and POLY_EVAL (41_polynomial.md R64, R66, R67): decode, illegal words, the three
answers of POLY_EVAL, and what its value depends on. -/

namespace Sys2Proof.Machine

section PolyEval
variable {x n : Byte} (s : State)

theorem exec_polyEval_of_illegal_count (hn : n.toNat < 2 ∨ 254 < n.toNat) :
    exec (.polyEval x n) s = .next (s.raise .cfgCount n) := if_pos hn

theorem exec_polyEval_of_zero (h2 : 2 ≤ n.toNat) (h254 : n.toNat ≤ 254) :
    exec (.polyEval 0x00#8 n) s = .next (s.raise .cfgXzero 0x00#8) :=
  (if_neg (by omega)).trans (if_pos rfl)

theorem exec_polyEval_of_ne_zero (h2 : 2 ≤ n.toNat) (h254 : n.toNat ≤ 254) (hx : x ≠ 0x00#8) :
    exec (.polyEval x n) s = .next (s.setRes (polyValue s.cfg.fieldPoly s.coef x n.toNat)).succeed := by
  rw [← gfHorner_eq_polyValue]
  exact (if_neg (by omega)).trans (if_neg hx)

end PolyEval

/-- Settles O40: the count is checked, then x, and the value is the polynomial's (R65). -/
theorem polyEvalGivesTheShare : Obligations.PolyEvalGivesTheShare := by
  intro x n s
  refine ⟨decode_encode (.polyEval x n),
    fun c hc hr => step_of_decode_mk_error hr (e := .unusedFieldNonZero 0x11#8) (by simp [decode, hc]),
    exec_polyEval_of_illegal_count s, ?_,
    fun h2 h254 hx =>
      ⟨polyValue s.cfg.fieldPoly s.coef x n.toNat, exec_polyEval_of_ne_zero s h2 h254 hx, rfl, ?_, ?_⟩, rfl⟩
  · rintro h2 h254 rfl
    exact exec_polyEval_of_zero s h2 h254
  · rintro rfl
    exact polyValue_one _ s.coef n.toNat
  · rintro rfl rfl h0 h1
    -- 0x02 · 0x2B needs no reduction, so the example holds for every FIELD_POLY.
    refine (polyValue_two _ s.coef 0x02#8).trans ?_
    rw [h0, h1, gfMul_two, xtime_of_lt _ (by decide)]
    rfl

/-- Settles O41: the result is a sum over FIELD_POLY, x and the first n entries. -/
theorem polyEvalDependsOnItsCoefficientsOnly : Obligations.PolyEvalDependsOnItsCoefficientsOnly := by
  intro x n s s' hp hcoef h2 h254 hx
  refine ⟨_, _, exec_polyEval_of_ne_zero s h2 h254 hx, exec_polyEval_of_ne_zero s' h2 h254 hx, ?_, ?_⟩
  · simp only [State.succeed_res, State.setRes_res]
    rw [← hp, polyValue_congr hcoef]
  · rintro rfl
    exact polyValue_two _ s.coef x

/-- Settles O38: the write is that of the array, and every legal count is at most 254. -/
theorem coefWrWritesOneCoefficient : Obligations.CoefWrWritesOneCoefficient := by
  intro i v s
  refine ⟨decode_encode (.coefWr i v),
    fun c hc hr => step_of_decode_mk_error hr (e := .unusedFieldNonZero 0x10#8) (by simp [decode, hc]),
    ⟨s.coef.write i v, rfl, s.coef.read_write_same i v, fun j hj => s.coef.read_write_other v hj⟩, ?_, rfl⟩
  intro hi x n
  by_cases hn : n.toNat < 2 ∨ 254 < n.toNat
  · exact ⟨_, _, exec_polyEval_of_illegal_count _ hn, exec_polyEval_of_illegal_count _ hn, rfl, rfl, rfl, rfl⟩
  obtain ⟨h2, h254⟩ : 2 ≤ n.toNat ∧ n.toNat ≤ 254 := by omega
  by_cases hx : x = 0x00#8
  · subst hx
    exact ⟨_, _, exec_polyEval_of_zero _ h2 h254, exec_polyEval_of_zero _ h2 h254, rfl, rfl, rfl, rfl⟩
  · have hunread : ∀ j, j < n.toNat → (s.coef.write i v).entry j = s.coef.entry j := fun j hj =>
      s.coef.entry_write_of_lt v (by omega)
    refine ⟨_, _, exec_polyEval_of_ne_zero _ h2 h254 hx, exec_polyEval_of_ne_zero _ h2 h254 hx, ?_⟩
    simp [polyValue_congr hunread]

end Sys2Proof.Machine
end

section
/-! The Lagrange sum at 0 (42_lagrange.md R70, R71): the loops of `gfLagrange0` give the sum for every P(x), the
two searches give the least offending index, and all of them read the points below the count alone. -/

namespace Sys2Proof.Machine

/-! ## The loops are the sum of R70 -/

theorem lagrangeWeight_eq_basisAtZero (p : BitVec 9) (px : Memory) (k i : Nat) :
    lagrangeWeight p px k i = basisAtZero p px i k := by
  induction k with
  | zero => rfl
  | succ k ih =>
    rw [lagrangeWeight] at ih
    rw [lagrangeWeight, List.range_succ, List.foldl_concat, ih, basisAtZero]

/-- The outer loop after `m` turns, the count `k` of the inner loops being fixed. -/
theorem foldl_lagrangeWeight_eq_interpolationSum (p : BitVec 9) (px py : Memory) (k m : Nat) :
    (List.range m).foldl (fun t i => gfAdd t (gfMul p (py.entry i) (lagrangeWeight p px k i))) 0x00#8 =
      interpolationSum p px py k m := by
  induction m with
  | zero => rfl
  | succ m ih => rw [List.range_succ, List.foldl_concat, ih, lagrangeWeight_eq_basisAtZero, interpolationSum]

theorem gfLagrange0_eq_interpolationSum (p : BitVec 9) (px py : Memory) (k : Nat) :
    gfLagrange0 p px py k = interpolationSum p px py k k :=
  foldl_lagrangeWeight_eq_interpolationSum p px py k k

/-- The line through two points, at 0. -/
theorem interpolationSum_two (p : BitVec 9) (px py : Memory) :
    interpolationSum p px py 2 2 =
      gfAdd (gfMul p (py.entry 0) (gfDiv p (px.entry 1) (gfAdd (px.entry 1) (px.entry 0))))
        (gfMul p (py.entry 1) (gfDiv p (px.entry 0) (gfAdd (px.entry 0) (px.entry 1)))) := by
  simp [interpolationSum, basisAtZero, gfAdd]

/-! ## The searches give the least offending index -/

theorem leastIdZero_eq_some_iff {px : Memory} {k m : Nat} : leastIdZero px k = some m ↔
    m < k ∧ px.entry m = 0x00#8 ∧ ∀ l, l < m → px.entry l ≠ 0x00#8 := by
  rw [leastIdZero, List.find?_range_eq_some]
  simp [and_left_comm]

theorem leastIdZero_eq_none_iff {px : Memory} {k : Nat} : leastIdZero px k = none ↔
    ∀ l, l < k → px.entry l ≠ 0x00#8 := by
  rw [leastIdZero, List.find?_range_eq_none]
  simp

/-- What one turn of the search for a repeated id tests. -/
theorem any_entry_eq_iff (px : Memory) (j : Nat) :
    ((List.range j).any fun i => px.entry i == px.entry j) = true ↔ ∃ i, i < j ∧ px.entry i = px.entry j := by
  simp

theorem leastDupId_eq_some_iff {px : Memory} {k m : Nat} : leastDupId px k = some m ↔
    m < k ∧ (∃ l, l < m ∧ px.entry l = px.entry m) ∧ ∀ l l', l < l' → l' < m → px.entry l ≠ px.entry l' := by
  rw [leastDupId, List.find?_range_eq_some, any_entry_eq_iff]
  simp only [Bool.not_eq_true', ← Bool.not_eq_true, any_entry_eq_iff, List.mem_range]
  grind

theorem leastDupId_eq_none_iff {px : Memory} {k : Nat} : leastDupId px k = none ↔
    ∀ l l', l < l' → l' < k → px.entry l ≠ px.entry l' := by
  rw [leastDupId, List.find?_range_eq_none]
  simp only [Bool.not_eq_true', ← Bool.not_eq_true, any_entry_eq_iff]
  grind

/-! ## The points at the count and above are not read -/

section Unread
variable {px px' : Memory} {k : Nat} (hx : ∀ i, i < k → px.entry i = px'.entry i)
include hx

theorem leastIdZero_congr : leastIdZero px k = leastIdZero px' k :=
  List.find?_congr fun i hi => by rw [hx i (List.mem_range.1 hi)]

theorem leastDupId_congr : leastDupId px k = leastDupId px' k := by
  refine List.find?_congr fun j hj => ?_
  have hjk := List.mem_range.1 hj
  rw [Bool.eq_iff_iff, any_entry_eq_iff, any_entry_eq_iff, hx j hjk]
  exact exists_congr fun i => and_congr_right fun hi => by rw [hx i (hi.trans hjk)]

theorem basisAtZero_congr {i n : Nat} (hi : i < k) (hn : n ≤ k) (p : BitVec 9) :
    basisAtZero p px i n = basisAtZero p px' i n := by
  induction n with
  | zero => rfl
  | succ n ih => rw [basisAtZero, basisAtZero, ih (Nat.le_of_succ_le hn), hx i hi, hx n hn]

theorem interpolationSum_congr {py py' : Memory} (hy : ∀ i, i < k → py.entry i = py'.entry i) {m : Nat} (hm : m ≤ k)
    (p : BitVec 9) : interpolationSum p px py k m = interpolationSum p px' py' k m := by
  induction m with
  | zero => rfl
  | succ m ih =>
    rw [interpolationSum, interpolationSum, ih (Nat.le_of_succ_le hm), hy m hm, basisAtZero_congr hx hm le_rfl]

end Unread

end Sys2Proof.Machine
end

section
/-! The commands PT_WR and INTERP0 (42_lagrange.md R69, R71): decode, illegal words, the four answers of
INTERP0, and the points that it does not read. -/

namespace Sys2Proof.Machine

section Interp0
variable {k : Byte} (s : State)

theorem exec_interp0_of_few (hk : k.toNat < 2) : exec (.interp0 k) s = .next (s.raise .consFewpoints k) :=
  if_pos hk

theorem exec_interp0_of_leastIdZero (h2 : 2 ≤ k.toNat) {m : Byte} (hz : leastIdZero s.px k.toNat = some m.toNat) :
    exec (.interp0 k) s = .next (s.raise .consIdzero m) := by
  simp [exec, execInterp0, Nat.not_lt.2 h2, hz]

theorem exec_interp0_of_leastDupId (h2 : 2 ≤ k.toNat) (hz : leastIdZero s.px k.toNat = none) {m : Byte}
    (hd : leastDupId s.px k.toNat = some m.toNat) : exec (.interp0 k) s = .next (s.raise .consDupid m) := by
  simp [exec, execInterp0, Nat.not_lt.2 h2, hz, hd]

theorem exec_interp0_of_goodPoints (hg : GoodPoints s.px k.toNat) : exec (.interp0 k) s =
    .next (s.setRes (interpolationSum s.cfg.fieldPoly s.px s.py k.toNat k.toNat)).succeed := by
  simp [exec, execInterp0, Nat.not_lt.2 hg.atLeastTwo, leastIdZero_eq_none_iff.2 hg.nonzero,
    leastDupId_eq_none_iff.2 hg.distinct, gfLagrange0_eq_interpolationSum]

/-- R71: memories that hold the same points below the count give the same end, and stay as they are. -/
theorem exec_interp0_of_points_eq {mx my : Memory} (hx : ∀ j, j < k.toNat → mx.entry j = s.px.entry j)
    (hy : ∀ j, j < k.toNat → my.entry j = s.py.entry j) : ∃ t, exec (.interp0 k) s = .next t ∧
      exec (.interp0 k) { s with px := mx, py := my } = .next { t with px := mx, py := my } := by
  simp only [exec, execInterp0, gfLagrange0_eq_interpolationSum, leastIdZero_congr hx, leastDupId_congr hx,
    interpolationSum_congr hx hy le_rfl]
  split
  · exact ⟨_, rfl, rfl⟩
  split
  · exact ⟨_, rfl, rfl⟩
  split <;> exact ⟨_, rfl, rfl⟩

end Interp0

/-- Settles O43: each check that fails is the search's least index (R71), and the loops give the sum of R70. -/
theorem interp0GivesTheInterpolatedByte : Obligations.Interp0GivesTheInterpolatedByte := by
  intro k s
  refine ⟨decode_encode (.interp0 k),
    fun b c h hr => step_of_decode_mk_error hr (e := .unusedFieldNonZero 0x21#8) (by simp [decode, not_and_or.2 h]),
    exec_interp0_of_few s,
    fun h2 m hm hz hl => exec_interp0_of_leastIdZero s h2 (leastIdZero_eq_some_iff.2 ⟨hm, hz, hl⟩),
    fun h2 hnz m hm hd hl => exec_interp0_of_leastDupId s h2 (leastIdZero_eq_none_iff.2 hnz)
      (leastDupId_eq_some_iff.2 ⟨hm, hd, hl⟩),
    exec_interp0_of_goodPoints s, ?_, rfl⟩
  rintro rfl hp hx0 hy0 hx1 hy1
  have hgood : GoodPoints s.px 2 := by
    refine ⟨le_rfl, by decide, fun i hi => ?_, fun i j hij hj => ?_⟩
    · obtain rfl | rfl : i = 0 ∨ i = 1 := by omega
      · simp [hx0]
      · simp [hx1]
    · obtain ⟨rfl, rfl⟩ : i = 0 ∧ j = 1 := by omega
      simp [hx0, hx1]
  have hsum : interpolationSum s.cfg.fieldPoly s.px s.py 2 2 = 0x48#8 := by
    have hw0 : gfDiv 0x11D#9 0x03#8 (gfAdd 0x03#8 0x01#8) = 0x8F#8 :=
      ((gfMul_eq_iff_eq_gfDiv (by decide) (by decide) _ _).1 (by decide)).symm
    have hw1 : gfDiv 0x11D#9 0x01#8 (gfAdd 0x01#8 0x03#8) = 0x8E#8 :=
      ((gfMul_eq_iff_eq_gfDiv (by decide) (by decide) _ _).1 (by decide)).symm
    rw [interpolationSum_two, hp, hx0, hy0, hx1, hy1, hw0, hw1]
    decide
  exact (exec_interp0_of_goodPoints (k := 0x02#8) s hgood).trans (by rw [BitVec.toNat_ofNat, hsum]; rfl)

/-- Settles O42: the writes are those of the arrays, and every count is at most 255. -/
theorem ptWrWritesOnePoint : Obligations.PtWrWritesOnePoint := by
  intro i x y s
  refine ⟨decode_encode (.ptWr i x y),
    ⟨s.px.write i x, s.py.write i y, rfl, s.px.read_write_same i x, s.py.read_write_same i y,
      fun j hj => ⟨s.px.read_write_other x hj, s.py.read_write_other y hj⟩⟩, ?_, rfl⟩
  rintro rfl k
  have hlt : ∀ j, j < k.toNat → j < (0xFF#8).toNat := fun j hj => hj.trans_le (Nat.le_of_lt_succ k.isLt)
  obtain ⟨t, ht, ht'⟩ := exec_interp0_of_points_eq s (fun j hj => s.px.entry_write_of_lt x (hlt j hj))
    (fun j hj => s.py.entry_write_of_lt y (hlt j hj))
  exact ⟨t, _, ht, ht', rfl, rfl, rfl, rfl⟩

end Sys2Proof.Machine
end

section
/-! The commands NOP and ZEROIZE (43_control.md R74, R75): decode, illegal words, what acceptance and success do to
the STATUS word, and the answers of INTERP0 and POLY_EVAL over cleared arrays. -/

namespace Sys2Proof.Machine

/-! ## The STATUS word along a command -/

/-- R16: DONE and BUSY are the two lowest bits, so setting them keeps the 30 above. -/
theorem append_done_busy_eq (x : BitVec 30) (done busy done' busy' : Bool) :
    x ++ BitVec.ofBool done' ++ BitVec.ofBool busy' =
      ((x ++ BitVec.ofBool done ++ BitVec.ofBool busy) &&& (BitVec.allOnes 30 ++ 0#1 ++ 0#1)) |||
        (0#30 ++ BitVec.ofBool done' ++ BitVec.ofBool busy') := by
  simp only [BitVec.and_append, BitVec.or_append, BitVec.and_allOnes, BitVec.and_zero, BitVec.or_zero,
    BitVec.zero_or]

/-- R32: acceptance clears DONE (bit 1) and sets BUSY (bit 0). -/
theorem statusWord_accept (s : State) (w : Word) :
    (s.accept w).statusWord = (s.statusWord &&& 0xFFFFFFFC#32) ||| 0x00000001#32 :=
  append_done_busy_eq _ s.done s.busy false true

/-- R36: success sets DONE (bit 1) and clears BUSY (bit 0). -/
theorem statusWord_succeed (s : State) :
    s.succeed.statusWord = (s.statusWord &&& 0xFFFFFFFC#32) ||| 0x00000002#32 :=
  append_done_busy_eq _ s.done s.busy true false

/-- Settles O44: acceptance leaves STATUS at BUSY alone, and success turns BUSY into DONE. -/
theorem nopOnlyCompletes : Obligations.NopOnlyCompletes := by
  intro s
  refine ⟨decode_encode .nop,
    fun a b c h hr => step_of_decode_mk_error hr (e := .unusedFieldNonZero 0x00#8)
      (by simp [decode, not_and_or.2 (h.imp_right not_and_or.2)]),
    rfl, ?_⟩
  rintro hs t ⟨⟩
  rw [statusWord_succeed, statusWord_accept, hs]
  decide

/-! ## Cleared arrays -/

@[simp] theorem Memory.entry_nil (i : Nat) : Memory.entry [] i = 0x00#8 := Memory.read_nil _

/-- R75: the zero polynomial has the value 0x00 everywhere. -/
@[simp] theorem polyValue_nil (p : BitVec 9) (x : Byte) (n : Nat) : polyValue p [] x n = 0x00#8 := by
  induction n with
  | zero => rfl
  | succ n ih => rw [polyValue, ih, Memory.entry_nil, zero_gfMul, gfAdd, BitVec.xor_self]

/-- R75: with no point written the least id 0x00 is the first one. -/
theorem leastIdZero_nil {k : Nat} (hk : 0 < k) : leastIdZero [] k = some 0 :=
  leastIdZero_eq_some_iff.2 ⟨hk, Memory.entry_nil 0, fun _ hl => absurd hl (Nat.not_lt_zero _)⟩

/-- Settles O45: the arrays hold no cell afterwards, so the first id is 0x00 and the polynomial is the zero one. -/
theorem zeroizeClearsTheSecrets : Obligations.ZeroizeClearsTheSecrets := by
  intro s
  refine ⟨decode_encode .zeroize,
    fun a b c h hr => step_of_decode_mk_error hr (e := .unusedFieldNonZero 0x30#8)
      (by simp [decode, not_and_or.2 (h.imp_right not_and_or.2)]),
    [], [], [], (s.clearArrays.setRes 0x00#8).succeed, rfl, rfl,
    fun j => ⟨Memory.read_nil j, Memory.read_nil j, Memory.read_nil j⟩, fun k hk => ?_, fun x n h2 h254 hx => ?_⟩
  · exact exec_interp0_of_leastIdZero (m := 0x00#8) _ hk (leastIdZero_nil (by omega))
  · rw [exec_polyEval_of_ne_zero _ h2 h254 hx, State.succeed_coef, State.setRes_coef, State.clearArrays_coef,
      polyValue_nil]
    rfl

end Sys2Proof.Machine
end

section
/-! The errors of commands (60_exceptions.md R77, R80, R81): the cause of each code with the value it records, what
a failed command leaves, and how long the record stays. -/

namespace Sys2Proof.Machine

/-! ## The causes -/

/-- R77, R81: over the ids `px`, command `i` fails with this error and the value `info`. A command has no cause for
ILLEGAL_CMD, which comes before the decode gives one. -/
def ErrKind.CausedBy (px : Memory) (i : Instr) (info : Byte) : ErrKind → Prop
  | .illegalCmd => False
  | .cfgCount => ∃ x, i = .polyEval x info ∧ (info.toNat < 2 ∨ 254 < info.toNat)
  | .cfgXzero => info = 0x00#8 ∧ ∃ n, i = .polyEval 0x00#8 n ∧ 2 ≤ n.toNat ∧ n.toNat ≤ 254
  | .divZero => (i = .gfInv 0x00#8 ∧ info = 0x03#8) ∨ ∃ a, i = .gfDiv a 0x00#8 ∧ info = 0x04#8
  | .consFewpoints => i = .interp0 info ∧ info.toNat < 2
  | .consIdzero => ∃ k, i = .interp0 k ∧ 2 ≤ k.toNat ∧ leastIdZero px k.toNat = some info.toNat
  | .consDupid => ∃ k, i = .interp0 k ∧ 2 ≤ k.toNat ∧ leastIdZero px k.toNat = none ∧
      leastDupId px k.toNat = some info.toNat

theorem exec_gfInv_zero (s : State) : exec (.gfInv 0x00#8) s = .next (s.raise .divZero 0x03#8) := rfl

theorem exec_gfDiv_zero (a : Byte) (s : State) : exec (.gfDiv a 0x00#8) s = .next (s.raise .divZero 0x04#8) := rfl

/-- A command with a cause takes that error. -/
theorem ErrKind.CausedBy.exec_eq {e : ErrKind} {i : Instr} {info : Byte} {s : State} (h : e.CausedBy s.px i info) :
    exec i s = .next (s.raise e info) := by
  cases e with
  | illegalCmd => exact h.elim
  | cfgCount =>
    obtain ⟨x, rfl, hn⟩ := h
    exact exec_polyEval_of_illegal_count s hn
  | cfgXzero =>
    obtain ⟨rfl, n, rfl, h2, h254⟩ := h
    exact exec_polyEval_of_zero s h2 h254
  | divZero =>
    obtain ⟨rfl, rfl⟩ | ⟨a, rfl, rfl⟩ := h
    · exact exec_gfInv_zero s
    · exact exec_gfDiv_zero a s
  | consFewpoints =>
    obtain ⟨rfl, hk⟩ := h
    exact exec_interp0_of_few s hk
  | consIdzero =>
    obtain ⟨k, rfl, h2, hz⟩ := h
    exact exec_interp0_of_leastIdZero s h2 hz
  | consDupid =>
    obtain ⟨k, rfl, h2, hz, hd⟩ := h
    exact exec_interp0_of_leastDupId s h2 hz hd

/-- An index below a count is a byte, so the searches over the points find one exactly where there is one. -/
theorem exists_find?_range_iff (f : Nat → Bool) (k : Byte) :
    (∃ b : Byte, (List.range k.toNat).find? f = some b.toNat) ↔ ∃ m, m < k.toNat ∧ f m = true := by
  constructor
  · rintro ⟨b, hb⟩
    exact ⟨_, List.mem_range.1 (List.mem_of_find?_eq_some hb), List.find?_some hb⟩
  · rintro ⟨m, hm, hf⟩
    obtain ⟨l, hl⟩ := Option.isSome_iff_exists.1 (List.find?_isSome.2 ⟨m, List.mem_range.2 hm, hf⟩)
    have hlk : l < k.toNat := List.mem_range.1 (List.mem_of_find?_eq_some hl)
    have hval : (BitVec.ofNat 8 l).toNat = l := Nat.mod_eq_of_lt (hlk.trans k.isLt)
    exact ⟨BitVec.ofNat 8 l, by rw [hval, hl]⟩

theorem exists_leastIdZero_iff (px : Memory) (k : Byte) :
    (∃ b : Byte, leastIdZero px k.toNat = some b.toNat) ↔ ∃ m, m < k.toNat ∧ px.entry m = 0x00#8 :=
  (exists_find?_range_iff _ k).trans (by simp)

theorem exists_leastDupId_iff (px : Memory) (k : Byte) :
    (∃ b : Byte, leastDupId px k.toNat = some b.toNat) ↔
      ∃ l m, l < m ∧ m < k.toNat ∧ px.entry l = px.entry m := by
  refine (exists_find?_range_iff _ k).trans ?_
  simp only [any_entry_eq_iff]
  exact ⟨fun ⟨m, hm, l, hl, he⟩ => ⟨l, m, hl, hm, he⟩, fun ⟨l, m, hl, hm, he⟩ => ⟨m, hm, l, hl, he⟩⟩

/-- R71, R81: an INTERP0 of two points or more has a cause to fail, an id 0x00 or else a repeated one, or its points
are good. -/
theorem interp0_causedBy_or_good {k : Byte} (px : Memory) (h2 : 2 ≤ k.toNat) :
    (∃ e info, ErrKind.CausedBy px (.interp0 k) info e) ∨ GoodPoints px k.toNat := by
  by_cases hz : ∃ m, m < k.toNat ∧ px.entry m = 0x00#8
  · obtain ⟨b, hb⟩ := (exists_leastIdZero_iff px k).2 hz
    exact .inl ⟨.consIdzero, b, k, rfl, h2, hb⟩
  have hnz : ∀ m, m < k.toNat → px.entry m ≠ 0x00#8 := fun m hm h0 => hz ⟨m, hm, h0⟩
  by_cases hd : ∃ l m, l < m ∧ m < k.toNat ∧ px.entry l = px.entry m
  · obtain ⟨b, hb⟩ := (exists_leastDupId_iff px k).2 hd
    exact .inl ⟨.consDupid, b, k, rfl, h2, leastIdZero_eq_none_iff.2 hnz, hb⟩
  · exact .inr ⟨h2, Nat.le_of_lt_succ k.isLt, hnz, fun l m hl hm he => hd ⟨l, m, hl, hm, he⟩⟩

/-- A command without a cause succeeds, and leaves the error record. -/
theorem exec_causedBy_or_keeps (i : Instr) (s : State) : (∃ e info, ErrKind.CausedBy s.px i info e) ∨
    ∃ t, exec i s = .next t ∧ t.err = s.err ∧ t.errInfo = s.errInfo := by
  cases i with
  | nop | gfAdd | gfMul | coefWr | ptWr | zeroize => exact .inr ⟨_, rfl, rfl, rfl⟩
  | gfInv a =>
    by_cases ha : a = 0x00#8
    · exact .inl ⟨.divZero, 0x03#8, .inl ⟨by rw [ha], rfl⟩⟩
    · exact .inr ⟨_, exec_gfInv_of_ne_zero ha s, rfl, rfl⟩
  | gfDiv a b =>
    by_cases hb : b = 0x00#8
    · exact .inl ⟨.divZero, 0x04#8, .inr ⟨a, by rw [hb], rfl⟩⟩
    · exact .inr ⟨_, exec_gfDiv_of_ne_zero a hb s, rfl, rfl⟩
  | polyEval x n =>
    by_cases hn : n.toNat < 2 ∨ 254 < n.toNat
    · exact .inl ⟨.cfgCount, n, x, rfl, hn⟩
    obtain ⟨h2, h254⟩ : 2 ≤ n.toNat ∧ n.toNat ≤ 254 := by omega
    by_cases hx : x = 0x00#8
    · exact .inl ⟨.cfgXzero, 0x00#8, rfl, n, by rw [hx], h2, h254⟩
    · exact .inr ⟨_, exec_polyEval_of_ne_zero s h2 h254 hx, rfl, rfl⟩
  | interp0 k =>
    by_cases hk : k.toNat < 2
    · exact .inl ⟨.consFewpoints, k, rfl, hk⟩
    · exact (interp0_causedBy_or_good s.px (Nat.le_of_not_lt hk)).imp_right fun hg =>
        ⟨_, exec_interp0_of_goodPoints s hg, rfl, rfl⟩

/-- What a command answered is the record of one of its causes, or has the error record as before. -/
theorem exec_raised_or_keeps {i : Instr} {s t : State} (h : exec i s = .next t) :
    (∃ e info, ErrKind.CausedBy s.px i info e ∧ t = s.raise e info) ∨ (t.err = s.err ∧ t.errInfo = s.errInfo) := by
  obtain ⟨e, info, hc⟩ | ⟨u, hu, hkeeps⟩ := exec_causedBy_or_keeps i s
  · exact .inl ⟨e, info, hc, Host.Outcome.next.inj (h.symm.trans hc.exec_eq)⟩
  · cases h.symm.trans hu
    exact .inr hkeeps

/-! ## The recorded code -/

theorem errCode_injective : Function.Injective errCode := by
  intro a b
  cases a <;> cases b <;> decide

section Recorded
variable {i : Instr} {s t : State} (h0 : s.err = 0#4) (h : exec i s = .next t)
include h0 h

/-- A code that a command has recorded has its cause, and ERRINFO holds the value of that cause. -/
theorem causedBy_of_err_eq {e : ErrKind} (he : t.err = errCode e) : e.CausedBy s.px i t.errInfo := by
  obtain ⟨e', info, hc, rfl⟩ | ⟨hkeeps, -⟩ := exec_raised_or_keeps h
  · exact errCode_injective he ▸ hc
  · exact absurd (he.symm.trans (hkeeps.trans h0)) (errCode_ne_zero e)

/-- R77: a code is recorded exactly for its cause. -/
theorem err_eq_errCode_iff (e : ErrKind) : t.err = errCode e ↔ ∃ info, e.CausedBy s.px i info := by
  refine ⟨fun he => ⟨_, causedBy_of_err_eq h0 h he⟩, fun ⟨info, hc⟩ => ?_⟩
  cases h.symm.trans hc.exec_eq
  rfl

/-- No code but those of the causes is recorded. -/
theorem err_eq_zero_or_errCode : t.err = 0#4 ∨ ∃ e, e ≠ .illegalCmd ∧ t.err = errCode e := by
  obtain ⟨e, info, hc, rfl⟩ | ⟨hkeeps, -⟩ := exec_raised_or_keeps h
  · refine .inr ⟨e, ?_, rfl⟩
    rintro rfl
    exact hc
  · exact .inl (hkeeps.trans h0)

end Recorded

/-- A command that leaves ERR = 0 leaves ERRINFO. -/
theorem errInfo_eq_of_err_eq_zero {i : Instr} {s t : State} (h : exec i s = .next t) (he : t.err = 0#4) :
    t.errInfo = s.errInfo := by
  obtain ⟨e, info, -, rfl⟩ | ⟨-, hinfo⟩ := exec_raised_or_keeps h
  · exact absurd he (errCode_ne_zero e)
  · exact hinfo

/-- R48: a word that decodes to no command takes ILLEGAL_CMD with its OP byte. -/
theorem completeWord_of_decode_error {w : Word} {e : DecodeError} (hd : decode w = .error e) (s : State) :
    completeWord w s = .next (s.raise .illegalCmd (fieldOp w)) := by
  rw [completeWord, hd]

/-- Settles O29: each code stands for its cause in `ErrKind.CausedBy`, whose value is the recorded one. -/
theorem eachErrorHasItsCauseAndInfo : Obligations.EachErrorHasItsCauseAndInfo := by
  intro i s t h0 h
  have hiff := err_eq_errCode_iff h0 h
  have hcause : ∀ e, t.err = errCode e → e.CausedBy s.px i t.errInfo := fun _ => causedBy_of_err_eq h0 h
  refine ⟨?codes, fun hs he => (errInfo_eq_of_err_eq_zero h he).trans hs, (hiff .cfgCount).trans ?count,
    (hiff .cfgXzero).trans ?xzero, (hiff .divZero).trans ?div, (hiff .consFewpoints).trans ?few,
    (hiff .consIdzero).trans ?idzero, (hiff .consDupid).trans ?dupid, ?countInfo, fun he => (hcause .cfgXzero he).1,
    ?invInfo, ?divInfo, ?fewInfo, ?idzeroInfo, ?dupidInfo, fun w e hd => completeWord_of_decode_error hd s⟩
  case codes =>
    obtain he | ⟨e, hne, he⟩ := err_eq_zero_or_errCode h0 h
    · exact .inl he
    · rw [he]
      cases e with
      | illegalCmd => contradiction
      | cfgCount | cfgXzero | divZero | consFewpoints | consIdzero | consDupid => decide
  case count => exact exists_comm
  case xzero => exact ⟨fun ⟨_, _, hn⟩ => hn, fun hn => ⟨_, rfl, hn⟩⟩
  case div =>
    constructor
    · rintro ⟨_, ⟨hi, -⟩ | ⟨a, hi, -⟩⟩
      · exact .inl hi
      · exact .inr ⟨a, hi⟩
    · rintro (hi | ⟨a, hi⟩)
      · exact ⟨_, .inl ⟨hi, rfl⟩⟩
      · exact ⟨_, .inr ⟨a, hi, rfl⟩⟩
  case few => exact Iff.rfl
  case idzero =>
    simp only [ErrKind.CausedBy, ← exists_leastIdZero_iff, ← exists_and_left]
    exact exists_comm
  case dupid =>
    simp only [ErrKind.CausedBy, ← exists_leastDupId_iff, ← leastIdZero_eq_none_iff, ← exists_and_left]
    exact exists_comm
  case countInfo =>
    rintro x n rfl he
    obtain ⟨_, ⟨⟩, -⟩ := hcause .cfgCount he
    rfl
  case invInfo =>
    rintro a rfl he
    obtain ⟨-, hinfo⟩ | ⟨_, ⟨⟩, -⟩ := hcause .divZero he
    exact hinfo
  case divInfo =>
    rintro a b rfl he
    obtain ⟨⟨⟩, -⟩ | ⟨_, -, hinfo⟩ := hcause .divZero he
    exact hinfo
  case fewInfo =>
    rintro k rfl he
    obtain ⟨⟨⟩, -⟩ := hcause .consFewpoints he
    rfl
  case idzeroInfo =>
    intro he
    obtain ⟨k, -, -, hz⟩ := hcause .consIdzero he
    exact (leastIdZero_eq_some_iff.1 hz).2
  case dupidInfo =>
    intro he
    obtain ⟨k, -, -, -, hd⟩ := hcause .consDupid he
    exact (leastDupId_eq_some_iff.1 hd).2

/-! ## The record stays -/

/-- Only the access to a register reaches it. -/
theorem access_of_reach {s : State} {acc : Access} {r : Reg} (h : s.reach acc = .ok r) : acc = regAccess s.cfg r := by
  have hr := reach_released h
  simp only [State.reach, hr] at h
  exact access_of_accessReg h

/-- R33: while ERR is not 0 a write of CMD is refused. -/
theorem State.writeCmd_of_err {s : State} (he : s.err ≠ 0#4) (w : Word) : s.writeCmd w = s.refuse :=
  State.writeCmd_of_not_accepts (State.accepts_eq_false_iff.2 (.inr (.inl he))) w

/-- R19, R33: while ERR is not 0, of all writes of a register only CTRL.CLR changes the error record. -/
theorem writeReg_keeps_error_or_clears {s : State} (he : s.err ≠ 0#4) (r : Reg) (w : Word) :
    ((s.writeReg r w).err = s.err ∧ (s.writeReg r w).errInfo = s.errInfo) ∨
      (r = .ctrl ∧ w.getLsbD 0 = true ∧ (s.writeReg r w).err = 0#4) := by
  cases r with
  | cmd =>
    have hrefuse : s.writeReg .cmd w = s.refuse := State.writeCmd_of_err he w
    exact .inl (by simp [hrefuse])
  | ctrl =>
    cases hb : w.getLsbD 0 with
    | true =>
      have hclear : s.writeReg .ctrl w = s.clearErrors := s.writeCtrl_of_clr hb
      exact .inr (by simp [hclear])
    | false =>
      have hsame : s.writeReg .ctrl w = s := s.writeCtrl_of_not_clr hb
      exact .inl (by simp [hsame])
  | status | result | info | rsvd14 | rsvd18 | rsvd1C => exact .inl ⟨rfl, rfl⟩

/-- R80: no step but a CTRL.CLR write and a reset changes the error record; no command completes, since the core
is not busy. -/
theorem step_keeps_error {s t : State} (hs : s.Inv) (he : s.err ≠ 0#4) (h : step s = .next t) :
    (t.err = s.err ∧ t.errInfo = s.errInfo) ∨
    (∃ w ops, s.host = .write (regAccess s.cfg .ctrl) w :: ops ∧ w.getLsbD 0 = true ∧ t.err = 0#4) ∨
    (∃ ops, s.host = .assertReset :: ops) := by
  cases step_cases h with
  | initEnds => exact .inl ⟨s.endInit_err, s.endInit_errInfo⟩
  | completes w _ hr => exact absurd (hs.status.busy_noErr (hs.channel.busy_of_ready hr)) he
  | passes | reads | releases => exact .inl ⟨rfl, rfl⟩
  | writes acc w ops r hn ha =>
    refine (writeReg_keeps_error_or_clears (s := s.tick.setHost ops) he r w).imp_right fun ⟨hr, hb, hz⟩ => ?_
    subst hr
    exact .inl ⟨w, ops, access_of_reach ha ▸ hn.host, hb, hz⟩
  | asserts ops hn => exact .inr (.inr ⟨ops, hn.host⟩)

/-- Settles O30: a command that does not set DONE ends with its error record, which `step_keeps_error` keeps. -/
theorem errorsRecordAndStick : Obligations.ErrorsRecordAndStick := by
  refine ⟨fun i s t _ h hnd => ?_, fun _ _ => step_keeps_error, fun _ w he => State.writeCmd_of_err he w⟩
  obtain ⟨e, info, rfl⟩ | ⟨hd, -⟩ := (exec_next h).raised_or_done
  · exact ⟨errCode_ne_zero e, rfl⟩
  · simp [hnd] at hd

end Sys2Proof.Machine
end

section
/-! Reset and the initialisation (70_reset_and_hazards.md R91 to R93): what the assertion of reset sets, what the
window shows while the initialisation runs, that it ends, and the state its end leaves. -/

namespace Sys2Proof.Machine

/-! ## The STATUS word without an error -/

/-- R16: with DONE, ERR and ERRINFO clear, STATUS shows OVR in bit 2 and BUSY in bit 0. -/
theorem statusWord_of_clear {s : State} (hd : s.done = false) (he : s.err = 0#4) (hi : s.errInfo = 0x00#8) :
    s.statusWord = if s.busy then if s.ovr then 0x00000005#32 else 0x00000001#32
      else if s.ovr then 0x00000004#32 else 0x00000000#32 := by
  rw [State.statusWord, hd, he, hi]
  cases s.ovr <;> cases s.busy <;> rfl

/-! ## The assertion of reset -/

theorem State.ChannelRules.busy_of_initialising {s : State} (h : s.ChannelRules) (hi : s.initialising = true) :
    s.busy = true :=
  h.busy_eq_true_iff.2 (.inr hi)

/-- R91: no CMD write is accepted while the initialisation runs, since BUSY is set. -/
theorem State.ChannelRules.accepts_of_initialising {s : State} (h : s.ChannelRules) (hi : s.initialising = true) :
    s.accepts = false :=
  State.accepts_eq_false_iff.2 (.inl (h.busy_of_initialising hi))

/-- What a register reads as does not depend on what the arrays hold. -/
theorem readReg_with_arrays (s : State) (c x y : Memory) (r : Reg) :
    ({ s with coef := c, px := x, py := y } : State).readReg r = s.readReg r := by
  cases r <;> rfl

/-- R91: every operation but the moves of the reset input accesses the window, so it is refused while reset is
asserted. -/
theorem hostTurn_refused_of_asserted {s : State} (hr : s.resetIn = true) {op : HostOp} (ha : op ≠ .assertReset)
    (hrel : op ≠ .releaseReset) : hostTurn op s = .refused .accessDuringReset := by
  cases op with
  | assertReset | releaseReset => contradiction
  | read | wait | check | rd | bootClear | bootInfo => rw [hostTurn, busRead, reach_asserted hr]
  | write => rw [hostTurn, busWrite, reach_asserted hr]

/-- Settles O18: the step is `State.assertReset`; BUSY refuses commands, and the released input is a condition of
every access. -/
theorem resetAssertionSetsTheCore : Obligations.ResetAssertionSetsTheCore := by
  intro s ops
  refine ⟨fun hn => ?_, readReg_with_arrays s, fun hinv => hinv.channel.accepts_of_initialising,
    fun hr op ha hrel hn => ?_⟩
  · exact ⟨(s.tick.setHost ops).assertReset, s.coef, s.px, s.py, s.expTab, s.logTab, step_host hn, rfl,
      by rw [statusWord_of_clear rfl rfl rfl]; rfl⟩
  · rw [step_host hn]
    exact hostTurn_refused_of_asserted (s := s.tick.setHost ops) hr ha hrel

/-! ## While the delay runs -/

/-- Every step before the delay has run out keeps `P` and takes one turn of the delay. -/
def KeptWhileDelayed (P : State → Prop) : Prop :=
  ∀ s t : State, P s → 0 < s.delay → step s = .next t → P t ∧ t.delay = s.delay - 1

/-- A run as long as the delay ends with the delay at 0 and the property still there. -/
theorem KeptWhileDelayed.runSteps_delay {P : State → Prop} (hk : KeptWhileDelayed P) {n : Nat} {s u : State}
    (hs : P s) (hd : s.delay = n) (h : runSteps n s = .next u) : P u ∧ u.delay = 0 := by
  induction n generalizing s with
  | zero => cases h; exact ⟨hs, hd⟩
  | succ n ih =>
    rw [runSteps_succ] at h
    split at h
    next t ht =>
      obtain ⟨hpt, hdt⟩ := hk s t hs (by omega) ht
      exact ih hpt (by omega) h
    next => cases h
    next => cases h

/-- A host that cannot stop lets the whole delay run. -/
theorem KeptWhileDelayed.exists_runSteps_delay {P : State → Prop} (hk : KeptWhileDelayed P) {n : Nat} {s : State}
    (hs : P s) (hd : s.delay = n) (hg : s.HostGoesOn) : ∃ u, runSteps n s = .next u := by
  induction n generalizing s with
  | zero => exact ⟨s, rfl⟩
  | succ n ih =>
    obtain ⟨t, ht, hgt⟩ := step_hostGoesOn hg (.inr (by omega))
    obtain ⟨hpt, hdt⟩ := hk s t hs (by omega) ht
    rw [runSteps_next ht]
    exact ih hpt (by omega) hgt

/-- The initialisation runs with the reset input released, and the host will not assert reset. -/
structure State.Initialises (s : State) : Prop where
  channel : s.ChannelRules
  initialising : s.initialising = true
  released : s.resetIn = false
  noReset : HostOp.assertReset ∉ s.host

/-- Reads, writes and releases leave the initialisation running, since BUSY keeps its delay from being drawn anew. -/
theorem State.Initialises.keptWhileDelayed : KeptWhileDelayed State.Initialises := by
  rintro s t ⟨hc, hi, hr, hnr⟩ hd h
  have hct := step_channelRules hc h
  have hb := hc.busy_of_initialising hi
  cases step_cases h with
  | initEnds _ h0 => omega
  | completes _ _ hready => exact absurd hready.due (by omega)
  | passes => exact ⟨⟨hct, hi, hr, hnr⟩, rfl⟩
  | reads op ops ops' _ hn _ _ hops =>
    rw [hn.host, List.mem_cons, not_or] at hnr
    exact ⟨⟨hct, hi, hr, by rcases hops with rfl | rfl | rfl <;> simp [hnr.2]⟩, rfl⟩
  | writes _ v ops r hn =>
    rw [hn.host, List.mem_cons, not_or] at hnr
    obtain ⟨-, hdl⟩ := writeReg_of_busy (s := s.tick.setHost ops) hb r v
    exact ⟨⟨hct, by simp [hi], by simp [hr], by simpa using hnr.2⟩, hdl⟩
  | asserts ops hn => simp [hn.host] at hnr
  | releases ops hn =>
    rw [hn.host, List.mem_cons, not_or] at hnr
    exact ⟨⟨hct, hi, rfl, hnr.2⟩, rfl⟩

/-! ## The end of the initialisation -/

/-- R92: the end clears the arrays and leaves the tables holding their constants, ROM ones by holding them
already; `initialising` and BUSY fall, and nothing else changes. -/
theorem step_endInit_eq {s : State} (hi : s.initialising = true) (hd : s.delay = 0) (ht : s.TablesBuilt) :
    step s = .next { s with
      coef := [], px := [], py := [], expTab := builtExp s.cfg, logTab := builtLog s.cfg
      initialising := false, busy := false } := by
  rw [step_initEnds hi hd, State.endInit, State.buildTables]
  split
  next hfixed =>
    obtain ⟨hexp, hlog⟩ := ht (.inr hfixed)
    rw [← hexp, ← hlog]
    rfl
  next => rfl

/-- Settles O19: the delay runs down with the initialisation going on, and the step that is then due is
`State.endInit`. -/
theorem initialisationEndsWithClearArrays : Obligations.InitialisationEndsWithClearArrays := by
  intro s hinv hi
  have hbusy := hinv.channel.busy_of_initialising hi
  have herr := hinv.status.busy_noErr hbusy
  refine ⟨?status, rfl, State.writeCmd_of_not_accepts (hinv.channel.accepts_of_initialising hi),
    fun w => s.writeCtrl_of_clr, fun hr hnr => ?ends, fun _ hd => ?last⟩
  case status =>
    rw [statusWord_of_clear (hinv.status.busy_notDone hbusy) herr (hinv.status.noErr_noInfo herr), if_pos hbusy]
  case ends =>
    have hs : s.Initialises := ⟨hinv.channel, hi, hr, hnr⟩
    refine ⟨State.Initialises.keptWhileDelayed.exists_runSteps_delay hs rfl, fun u hu => ?_⟩
    obtain ⟨hsu, hdu⟩ := State.Initialises.keptWhileDelayed.runSteps_delay hs rfl hu
    exact ⟨hsu.initialising, hdu, hsu.released⟩
  case last =>
    exact ⟨[], [], [], step_endInit_eq hi hd hinv.tables,
      fun i => ⟨Memory.read_nil i, Memory.read_nil i, Memory.read_nil i⟩⟩

/-! ## The state after the initialisation -/

/-- What a core holds once reset has been asserted, at power-on or later, but for the arrays and OVR. -/
structure State.WasReset (r : State) : Prop where
  busy : r.busy = true
  done : r.done = false
  err : r.err = 0#4
  errInfo : r.errInfo = 0x00#8
  res : r.res = 0x00#8
  pending : r.pending = none
  initialising : r.initialising = true
  tables : r.TablesBuilt

theorem resetWith_wasReset (cfg : Config) : (State.resetWith cfg).WasReset :=
  have htables : (State.resetWith cfg).TablesBuilt
    | .inl hended => nomatch hended
    | .inr hfixed => ⟨if_pos hfixed, if_pos hfixed⟩
  ⟨rfl, rfl, rfl, rfl, rfl, rfl, rfl, htables⟩

theorem assertReset_wasReset {s : State} (ht : s.TablesBuilt) : s.assertReset.WasReset :=
  have htables : s.assertReset.TablesBuilt
    | .inl hended => nomatch hended
    | .inr hfixed => ht (.inr hfixed)
  ⟨rfl, rfl, rfl, rfl, rfl, rfl, rfl, htables⟩

/-- R25: the tables that an initialisation leaves a LOG_TABLE core, entry by entry. -/
theorem builtTables_read {cfg : Config} {g : Byte} {st : TableStore} (hm : cfg.mulImpl = .logTable g st) {i : Byte}
    (hi : i.toNat < 255) : (builtExp cfg).read i = gfPow cfg.fieldPoly g i.toNat ∧
      (builtLog cfg).read (gfPow cfg.fieldPoly g i.toNat) = i := by
  have hg : isPrimitive cfg.fieldPoly g = true := by
    have hgen := cfg.gen_legal
    rwa [hm] at hgen
  have hexp := readExp_expTable hg i.toNat
  have hlog := readLog_gfPow hg hi
  rw [readExp, Nat.mod_eq_of_lt hi, BitVec.ofNat_toNat, BitVec.setWidth_eq] at hexp
  rw [readLog, if_neg (gfPow_ne_zero_of_isPrimitive hg _), Option.some_inj, BitVec.toNat_inj] at hlog
  rw [builtExp, builtLog, hm]
  exact ⟨hexp, hlog⟩

/-- Settles O20: both origins give a state that `WasReset`, whose due step is `State.endInit`. -/
theorem resetValuesAfterInitialisation : Obligations.ResetValuesAfterInitialisation := by
  intro r o c x y horigin
  have hr : r.WasReset := by
    rcases horigin with ⟨cfg, rfl⟩ | ⟨s, hinv, rfl⟩
    · exact resetWith_wasReset cfg
    · exact assertReset_wasReset hinv.tables
  have htables : ({ r with ovr := o, coef := c, px := x, py := y, resetIn := false, delay := 0 } : State).TablesBuilt :=
    hr.tables
  refine ⟨hr.busy, _, step_endInit_eq hr.initialising rfl htables, ?status, ?result,
    fun i => ⟨Memory.read_nil i, Memory.read_nil i, Memory.read_nil i⟩, hr.pending, rfl, rfl,
    fun _ _ hm _ hi => builtTables_read hm hi, rfl, rfl, rfl⟩
  case status =>
    rw [statusWord_of_clear]
    exacts [rfl, hr.done, hr.err, hr.errInfo]
  case result => simp [State.readReg, State.resultWord, hr.res]

end Sys2Proof.Machine
end

section
/-! The invariant of the machine (10_state.md R17, R22, R23, R25): it holds right after reset, every step
keeps it, and so does the placing of a command word. -/

namespace Sys2Proof.Machine

/-! ## The canonical form of the memories -/

theorem State.MemoriesWf.of_same {s t : State} (h : s.MemoriesWf) (hc : t.coef = s.coef) (hx : t.px = s.px)
    (hy : t.py = s.py) (he : t.expTab = s.expTab) (hl : t.logTab = s.logTab) : t.MemoriesWf :=
  ⟨hc ▸ h.coef_wf, hx ▸ h.px_wf, hy ▸ h.py_wf, he ▸ h.exp_wf, hl ▸ h.log_wf⟩

/-- A command writes entries one by one or clears the arrays. -/
theorem ExecCase.memoriesWf {s t : State} (h : ExecCase s t) (hm : s.MemoriesWf) : t.MemoriesWf := by
  cases h with
  | raised | nothing | result => exact hm.of_same rfl rfl rfl rfl rfl
  | coefficient i v => exact ⟨Memory.wf_write i v hm.coef_wf, hm.px_wf, hm.py_wf, hm.exp_wf, hm.log_wf⟩
  | point i x y =>
    exact ⟨hm.coef_wf, Memory.wf_write i x hm.px_wf, Memory.wf_write i y hm.py_wf, hm.exp_wf, hm.log_wf⟩
  | cleared => exact ⟨rfl, rfl, rfl, hm.exp_wf, hm.log_wf⟩

/-- R92: the tables that the end of the initialisation builds are in canonical form. -/
theorem State.MemoriesWf.endInit {s : State} (h : s.MemoriesWf) : s.endInit.MemoriesWf := by
  refine ⟨by simp, by simp, by simp, ?_, ?_⟩
  · rw [State.endInit_expTab]
    split
    · exact h.exp_wf
    · exact builtExp_wf s.cfg
  · rw [State.endInit_logTab]
    split
    · exact h.log_wf
    · exact builtLog_wf s.cfg

theorem step_memoriesWf {s t : State} (hm : s.MemoriesWf) (h : step s = .next t) : t.MemoriesWf := by
  cases step_cases h with
  | initEnds => exact hm.endInit
  | completes _ _ _ _ hc => exact hc.memoriesWf hm
  | passes | reads | asserts | releases => exact hm.of_same rfl rfl rfl rfl rfl
  | writes => exact hm.of_same (by simp) (by simp) (by simp) (by simp) (by simp)

/-! ## The contents of the tables -/

/-- A command leaves the tables alone. -/
theorem ExecCase.tables {s t : State} (h : ExecCase s t) : t.expTab = s.expTab ∧ t.logTab = s.logTab := by
  cases h <;> exact ⟨rfl, rfl⟩

/-- R25: tables that stay as they are hold their constants as before, unless an initialisation has ended. -/
theorem State.TablesBuilt.of_same {s t : State} (h : s.TablesBuilt) (hc : t.cfg = s.cfg) (he : t.expTab = s.expTab)
    (hl : t.logTab = s.logTab) (hi : t.initialising = false → s.initialising = false) : t.TablesBuilt := by
  intro ht
  rw [hc] at ht ⊢
  rw [he, hl]
  exact h (ht.imp_left hi)

/-- R92: RAM tables are filled at the end of the initialisation, ROM ones held their constants before. -/
theorem State.TablesBuilt.endInit {s : State} (h : s.TablesBuilt) : s.endInit.TablesBuilt := by
  intro _
  rw [State.endInit_expTab, State.endInit_logTab, State.endInit_cfg]
  split
  next hfixed => exact h (.inr hfixed)
  next => exact ⟨rfl, rfl⟩

theorem step_tablesBuilt {s t : State} (hb : s.TablesBuilt) (h : step s = .next t) : t.TablesBuilt := by
  cases step_cases h with
  | initEnds => exact hb.endInit
  | completes _ _ _ _ hc =>
    obtain ⟨he, hl⟩ := hc.tables
    obtain ⟨-, -, hi⟩ := hc.channel
    exact hb.of_same hc.cfg_eq he hl hi.symm.trans
  | passes | reads | releases => exact hb.of_same rfl rfl rfl id
  | writes => exact hb.of_same (by simp) (by simp) (by simp) (by simp)
  | asserts => exact hb.of_same rfl rfl rfl (by simp)

/-! ## The invariant -/

/-- Settles O22: every step keeps each of the four parts, the rules of STATUS by those of the channel. -/
theorem stepKeepsTheInvariant : Obligations.StepKeepsTheInvariant := by
  rintro s t ⟨hs, hc, hm, hb⟩ h
  exact ⟨step_statusRules hs hc h, step_channelRules hc h, step_memoriesWf hm h, step_tablesBuilt hb h⟩

/-- Settles O21: STATUS shows BUSY alone, the arrays are empty, and ROM tables hold their constants. -/
theorem resetMeetsTheInvariant : Obligations.ResetMeetsTheInvariant := by
  intro cfg
  refine ⟨.of_noErr rfl rfl fun _ => rfl, ⟨rfl, fun _ => rfl⟩, ⟨rfl, rfl, rfl, ?exp, ?log⟩,
    (resetWith_wasReset cfg).tables⟩
  case exp =>
    rw [State.resetWith]
    split
    · exact builtExp_wf cfg
    · rfl
  case log =>
    rw [State.resetWith]
    split
    · exact builtLog_wf cfg
    · rfl

/-! ## Placing a command word -/

/-- R92: ending the initialisation that runs, if one does, leaves a core that has been initialised. -/
theorem State.Inv.initialised {s : State} (h : s.Inv) :
    (if s.initialising then s.endInit else s).initialising = false ∧
      (if s.initialising then s.endInit else s).MemoriesWf ∧
      (if s.initialising then s.endInit else s).TablesBuilt := by
  split
  next => exact ⟨s.endInit_initialising, h.memories.endInit, h.tables.endInit⟩
  next hi => exact ⟨by simpa using hi, h.memories, h.tables⟩

/-- Settles O55: the placing makes the word pending and due, with BUSY alone, on a core that has been initialised. -/
theorem placedWordIsCompletedNext : Obligations.PlacedWordIsCompletedNext := by
  intro s nbits w h
  obtain ⟨hi, hm, hb⟩ := h.initialised
  exact ⟨⟨.of_noErr rfl rfl fun _ => rfl, ⟨(Bool.or_true _).symm, fun hrun => nomatch hi.symm.trans hrun⟩,
    hm.of_same rfl rfl rfl rfl rfl, hb.of_same rfl rfl rfl id⟩, rfl, hi, rfl⟩

end Sys2Proof.Machine
end

section
/-! Encodings and the lines of programs (30_encoding.md R46 to R52): the decoder and the encoder are inverse, the
assembler answers a word exactly for the well-formed lines, and host lines expand into those words. -/

namespace Sys2Proof

/-! ## Decoding and encoding -/

/-- Settles O1: the lanes of a word decode as the word does, and `decode_encode` covers every command. -/
theorem decodeOfEncodeIsTheCommand : Obligations.DecodeOfEncodeIsTheCommand := by
  intro i _
  refine ⟨decode_encode i, (decodeBytes_wordLanes _).trans (decode_encode i), ?_⟩
  cases i <;> exact fieldOp_mk _ _ _ _

/-- Settles O2: the decoder answers a command for its encoding alone. -/
theorem encodeOfDecodeIsTheWord : Obligations.EncodeOfDecodeIsTheWord :=
  fun _ _ => encode_of_decode

/-- Settles O5, by running the decoder on the listed words. -/
theorem sampleWordsDecodeAsTheSpecLists : Obligations.SampleWordsDecodeAsTheSpecLists := by
  unfold Obligations.SampleWordsDecodeAsTheSpecLists
  decide

/-! ## The assembler -/

/-- A line whose operands are the numbers of bytes. -/
abbrev byteLine (m : String) (bs : List Byte) : AsmLine := ⟨m, bs.map BitVec.toNat⟩

@[simp] theorem asmByte_toNat (b : Byte) : asmByte b.toNat = some b := by
  simp [asmByte, b.isLt]

theorem asmByte_eq_none_iff {n : Nat} : asmByte n = none ↔ 256 ≤ n := by
  simp [asmByte]

@[simp] theorem mapM_asmByte_toNat (bs : List Byte) : (bs.map BitVec.toNat).mapM asmByte = some bs := by
  induction bs with
  | nil => rfl
  | cons b bs ih => simp [ih]

/-- R51: operands in 0..255 are the numbers of bytes. -/
theorem AsmLine.eq_byteLine_of_rangeOk {l : AsmLine} (h : l.rangeOk = true) : ∃ bs, l = byteLine l.mnemonic bs := by
  obtain ⟨m, ns⟩ := l
  have hlt : ∀ n ∈ ns, n < 256 := by simpa [AsmLine.rangeOk] using h
  have hns : (ns.map (BitVec.ofNat 8)).map BitVec.toNat = ns := by
    rw [List.map_map]
    exact (List.map_congr_left fun n hn => Nat.mod_eq_of_lt (hlt n hn)).trans (List.map_id ns)
  exact ⟨ns.map (BitVec.ofNat 8), by rw [byteLine, hns]⟩

/-- R51: an operand out of 0..255 is an assembler error. -/
theorem AsmLine.parse_of_not_rangeOk {l : AsmLine} (h : l.rangeOk = false) : l.parse = none := by
  have hnone : l.operands.mapM asmByte = none := by
    rw [AsmLine.rangeOk, List.all_eq_false] at h
    obtain ⟨n, hn, hout⟩ := h
    generalize l.operands = ns at hn
    induction ns with
    | nil => simp at hn
    | cons k ns ih =>
      rcases List.mem_cons.1 hn with rfl | hn
      · simp [asmByte_eq_none_iff.2 (by simpa using hout)]
      · simp [ih hn]
  rw [AsmLine.parse, hnone]

theorem wf_byteLine (m : String) (bs : List Byte) : (byteLine m bs).wf = (AsmLine.arity m == some bs.length) := by
  have hrange : (byteLine m bs).rangeOk = true := by simpa [AsmLine.rangeOk] using fun b _ => b.isLt
  rw [AsmLine.wf, hrange, AsmLine.mnemonicOk, AsmLine.arityOk]
  cases AsmLine.arity m <;> simp

/-- R51: with operands in range, a line is a command exactly when it has the number of operands of its mnemonic. -/
theorem isSome_parse_byteLine (m : String) (bs : List Byte) :
    (byteLine m bs).parse.isSome = (AsmLine.arity m == some bs.length) := by
  rcases bs with _ | ⟨a, _ | ⟨b, _ | ⟨c, _ | ⟨d, bs⟩⟩⟩⟩
  all_goals
    simp only [AsmLine.parse, mapM_asmByte_toNat, AsmLine.arity]
    split_ifs <;> simp_all

/-- R51: the lines that assemble are the well-formed ones. -/
theorem isSome_assemble (l : AsmLine) : l.assemble.isSome = l.wf := by
  rw [AsmLine.assemble, Option.isSome_map]
  cases h : l.rangeOk with
  | true =>
    obtain ⟨bs, hbs⟩ := AsmLine.eq_byteLine_of_rangeOk h
    rw [hbs, isSome_parse_byteLine, wf_byteLine]
  | false => simp [AsmLine.parse_of_not_rangeOk h, AsmLine.wf, h]

theorem assemble_eq_none_iff (l : AsmLine) : l.assemble = none ↔ l.wf = false := by
  rw [← isSome_assemble, Option.isSome_eq_false_iff, Option.isNone_iff_eq_none]

/-- The line of a command is parsed back to it. -/
theorem parse_asm (i : Instr) : i.asm.parse = some i := by
  cases i <;> simp [Instr.asm, AsmLine.parse]

theorem assemble_asm (i : Instr) : i.asm.assemble = some (encode i) := by
  rw [AsmLine.assemble, parse_asm, Option.map_some]

/-- Settles O6: a command's line is parsed back to it, and the lines that parse are those that are well formed. -/
theorem assemblerLinesGiveTheirWords : Obligations.AssemblerLinesGiveTheirWords :=
  ⟨assemble_asm, assemble_eq_none_iff⟩

/-! ## The expansion of lines -/

namespace Machine

/-- A command line expands into nothing exactly when it is an assembler error. -/
theorem commandOps_eq_none_iff (cfg : Config) (l : AsmLine) : commandOps cfg l = none ↔ l.wf = false := by
  rw [commandOps, Option.map_eq_none_iff, assemble_eq_none_iff]

theorem commandOps_asm (cfg : Config) (i : Instr) :
    commandOps cfg i.asm = some [.write ⟨cfg.base + 0x00, 4⟩ (encode i), .wait] := by
  rw [commandOps, assemble_asm]
  rfl

/-- The lines of a load, as its entries with their indices. -/
theorem coefLoadLines_eq (k : Nat) (cs : List Nat) :
    coefLoadLines k cs = (cs.zipIdx k).map fun e => ⟨"coef.wr", [e.2, e.1]⟩ := by
  induction cs generalizing k with
  | nil => rfl
  | cons c cs ih => simp [coefLoadLines, ih]

theorem ptLoadLines_eq (k : Nat) (ps : List (Nat × Nat)) :
    ptLoadLines k ps = (ps.zipIdx k).map fun e => ⟨"pt.wr", [e.2, e.1.1, e.1.2]⟩ := by
  induction ps generalizing k with
  | nil => rfl
  | cons p ps ih => simp [ptLoadLines, ih]

/-- R52: a load whose entries are bytes gives, index by index, the accesses of the commands that its lines are. -/
theorem joinOps_load {α β : Type} (cfg : Config) (line : β × Nat → AsmLine) (val : α → β)
    (command : α → Byte → Instr) (hline : ∀ x (n : Byte), line (val x, n.toNat) = (command x n).asm) {es : List α} (hlen : es.length ≤ 256) :
    joinOps (((es.map val).zipIdx.map line).map (commandOps cfg)) = some (es.zipIdx.flatMap fun e =>
      [.write ⟨cfg.base + 0x00, 4⟩ (encode (command e.1 (BitVec.ofNat 8 e.2))), .wait]) := by
  rw [List.zipIdx_map, List.map_map, List.map_map]
  refine joinOps_map_some _ _ fun e he => ?_
  have hidx : e.2 < 256 := by
    have := List.snd_lt_of_mem_zipIdx he
    omega
  have hval : e.2 = (BitVec.ofNat 8 e.2).toNat := (Nat.mod_eq_of_lt hidx).symm
  have hcommand : line (val e.1, e.2) = (command e.1 (BitVec.ofNat 8 e.2)).asm := by rw [← hline, ← hval]
  exact (congrArg (commandOps cfg) hcommand).trans (commandOps_asm cfg _)

/-- R51, R52: a load expands into nothing exactly when an index is out of range or an entry is. -/
theorem joinOps_load_eq_none_iff {α : Type} (cfg : Config) (line : α × Nat → AsmLine) (bad : α → Prop)
    (hline : ∀ e, (line e).wf = false ↔ 256 ≤ e.2 ∨ bad e.1) (es : List α) :
    joinOps ((es.zipIdx.map line).map (commandOps cfg)) = none ↔ 256 < es.length ∨ ∃ x ∈ es, bad x := by
  have hindex : joinOps ((es.zipIdx.map line).map (commandOps cfg)) = none ↔
      ∃ (n : Nat) (h : n < es.length), 256 ≤ n ∨ bad es[n] := by
    rw [joinOps_eq_none]
    simp only [List.mem_map, exists_exists_and_eq_and, commandOps_eq_none_iff]
    simp only [hline, List.exists_mem_zipIdx']
  rw [hindex]
  constructor
  · rintro ⟨n, hn, h256 | hbad⟩
    · exact .inl (by omega)
    · exact .inr ⟨_, List.getElem_mem hn, hbad⟩
  · rintro (hlen | ⟨x, hx, hbad⟩)
    · exact ⟨256, hlen, .inl le_rfl⟩
    · obtain ⟨n, hn, rfl⟩ := List.getElem_of_mem hx
      exact ⟨n, hn, .inr hbad⟩

theorem wf_coefWr_line (k c : Nat) : AsmLine.wf ⟨"coef.wr", [k, c]⟩ = false ↔ 256 ≤ k ∨ 256 ≤ c := by
  have hwf : AsmLine.wf ⟨"coef.wr", [k, c]⟩ = AsmLine.rangeOk ⟨"coef.wr", [k, c]⟩ := rfl
  rw [hwf, AsmLine.rangeOk, List.all_eq_false]
  simp

theorem wf_ptWr_line (k x y : Nat) : AsmLine.wf ⟨"pt.wr", [k, x, y]⟩ = false ↔ 256 ≤ k ∨ 256 ≤ x ∨ 256 ≤ y := by
  have hwf : AsmLine.wf ⟨"pt.wr", [k, x, y]⟩ = AsmLine.rangeOk ⟨"pt.wr", [k, x, y]⟩ := rfl
  rw [hwf, AsmLine.rangeOk, List.all_eq_false]
  simp

/-- Settles O56: the loads are their lines, each of them a command's as long as its index is a byte. -/
theorem hostLinesExpandIntoAccesses : Obligations.HostLinesExpandIntoAccesses := by
  intro cfg
  refine ⟨fun _ => rfl, commandOps_asm cfg, commandOps_eq_none_iff cfg, rfl, rfl, fun _ => rfl, fun _ => rfl, rfl,
    fun cs hlen => ?coef, fun ps hlen => ?pt, fun cs => ?coefNone, fun ps => ?ptNone⟩
  case coef =>
    rw [HostLine.expand, coefLoadLines_eq]
    exact joinOps_load cfg (fun e => ⟨"coef.wr", [e.2, e.1]⟩) BitVec.toNat (fun v i => .coefWr i v)
      (fun _ _ => rfl) hlen
  case pt =>
    rw [HostLine.expand, ptLoadLines_eq]
    exact joinOps_load cfg (fun e => ⟨"pt.wr", [e.2, e.1.1, e.1.2]⟩) (fun e => (e.1.toNat, e.2.toNat))
      (fun e i => .ptWr i e.1 e.2) (fun _ _ => rfl) hlen
  case coefNone =>
    rw [HostLine.expand, coefLoadLines_eq]
    exact joinOps_load_eq_none_iff cfg _ (256 ≤ ·) (fun e => wf_coefWr_line e.2 e.1) cs
  case ptNone =>
    rw [HostLine.expand, ptLoadLines_eq]
    exact joinOps_load_eq_none_iff cfg _ (fun e => 256 ≤ e.1 ∨ 256 ≤ e.2)
      (fun e => wf_ptWr_line e.2 e.1.1 e.1.2) ps

end Machine
end Sys2Proof
end

section
/-! The frame of commands and steps (10_state.md R22, R25, 20_memory.md R36): which commands write which entries, that
only the end of the initialisation writes the tables, and that no host access reads the arrays. -/

namespace Sys2Proof.Machine

/-! ## The frame of a command -/

/-- R18: a command that produces a result takes an error or writes RES, and leaves the arrays. -/
theorem exec_raised_or_result {i : Instr} {s t : State} (hw : writesResult i = true) (h : exec i s = .next t) :
    (∃ e info, t = s.raise e info) ∨ ∃ v, t = (s.setRes v).succeed := by
  cases i with
  | nop | coefWr | ptWr | zeroize => cases hw
  | gfAdd | gfMul => cases h; exact .inr ⟨_, rfl⟩
  | gfInv | gfDiv =>
    simp only [exec, execGfInv, execGfDiv] at h
    split at h <;> cases h
    · exact .inl ⟨_, _, rfl⟩
    · exact .inr ⟨_, rfl⟩
  | polyEval x n =>
    simp only [exec, execPolyEval] at h
    split at h
    · cases h; exact .inl ⟨_, _, rfl⟩
    split at h <;> cases h
    · exact .inl ⟨_, _, rfl⟩
    · exact .inr ⟨_, rfl⟩
  | interp0 k =>
    simp only [exec, execInterp0] at h
    split at h
    · cases h; exact .inl ⟨_, _, rfl⟩
    split at h
    · cases h; exact .inl ⟨_, _, rfl⟩
    split at h <;> cases h
    · exact .inl ⟨_, _, rfl⟩
    · exact .inr ⟨_, rfl⟩

/-- A command that produces a result leaves the arrays. -/
theorem exec_arrays_of_writesResult {i : Instr} {s t : State} (hw : writesResult i = true) (h : exec i s = .next t) :
    t.coef = s.coef ∧ t.px = s.px ∧ t.py = s.py := by
  obtain ⟨_, _, rfl⟩ | ⟨_, rfl⟩ := exec_raised_or_result hw h <;> exact ⟨rfl, rfl, rfl⟩

/-- R22: a command leaves every coefficient that it does not store to. -/
theorem exec_coef_read {i : Instr} {s t : State} (h : exec i s = .next t) {j : Byte} (hj : storesCoef i j = false) :
    t.coef.read j = s.coef.read j := by
  cases i with
  | coefWr k v =>
    cases h
    have hne : j ≠ k := fun he => by simp [storesCoef, he] at hj
    exact s.coef.read_write_other v hne
  | zeroize => cases hj
  | nop | ptWr => cases h; rfl
  | gfAdd | gfMul | gfInv | gfDiv | polyEval | interp0 => rw [(exec_arrays_of_writesResult rfl h).1]

/-- R22: a command leaves every point that it does not store to. -/
theorem exec_point_read {i : Instr} {s t : State} (h : exec i s = .next t) {j : Byte} (hj : storesPoint i j = false) :
    t.px.read j = s.px.read j ∧ t.py.read j = s.py.read j := by
  cases i with
  | ptWr k x y =>
    cases h
    have hne : j ≠ k := fun he => by simp [storesPoint, he] at hj
    exact ⟨s.px.read_write_other x hne, s.py.read_write_other y hne⟩
  | zeroize => cases hj
  | nop | coefWr => cases h; exact ⟨rfl, rfl⟩
  | gfAdd | gfMul | gfInv | gfDiv | polyEval | interp0 =>
    obtain ⟨-, hx, hy⟩ := exec_arrays_of_writesResult rfl h
    rw [hx, hy]
    exact ⟨rfl, rfl⟩

/-- Settles O33: no end of a command touches the fields beside its results, and those follow the tables of
`writesResult`, `storesCoef` and `storesPoint`. -/
theorem commandsKeepEverythingElse : Obligations.CommandsKeepEverythingElse := by
  intro i s t h
  have hframe : t.ovr = s.ovr ∧ t.resetIn = s.resetIn ∧ t.delay = s.delay ∧ t.delays = s.delays ∧
      t.host = s.host ∧ t.hostLog = s.hostLog := by
    cases exec_next h <;> exact ⟨rfl, rfl, rfl, rfl, rfl, rfl⟩
  obtain ⟨hovr, hreset, hdelay, hdelays, hhost, hlog⟩ := hframe
  obtain ⟨hexp, hlogTab⟩ := (exec_next h).tables
  obtain ⟨-, -, hinit⟩ := (exec_next h).channel
  exact ⟨(exec_next h).cfg_eq, hovr, hexp, hlogTab, hinit, hreset, hdelay, hdelays, hhost, hlog, exec_res_eq h,
    fun _ => exec_coef_read h, fun _ => exec_point_read h⟩

/-! ## Which steps write the tables and the arrays -/

/-- Settles O25: of the cases of a step only the end of the initialisation touches the tables. -/
theorem tablesAreNeverWrittenAfterwards : Obligations.TablesAreNeverWrittenAfterwards := by
  intro s t h hne
  cases step_cases h with
  | initEnds hi hd => exact ⟨hi, hd, s.endInit_initialising⟩
  | completes _ _ _ _ hc =>
    obtain ⟨he, hl⟩ := hc.tables
    exact absurd hne (by simp [he, hl])
  | passes | reads | writes | asserts | releases => exact absurd hne (by simp)

/-- R22: a completion that changes a coefficient is that of a command that stores to it. -/
theorem completeWord_coef_read_ne {w : Word} {s t : State} (h : completeWord w s = .next t) {j : Byte}
    (hne : t.coef.read j ≠ s.coef.read j) : ∃ i, decode w = .ok i ∧ storesCoef i j = true := by
  unfold completeWord at h
  split at h
  next i hi => exact ⟨i, hi, by simpa using fun hj => hne (exec_coef_read h hj)⟩
  next => cases h; exact absurd rfl hne

/-- R22: a completion that changes a point is that of a command that stores to it. -/
theorem completeWord_point_read_ne {w : Word} {s t : State} (h : completeWord w s = .next t) {j : Byte}
    (hne : t.px.read j ≠ s.px.read j ∨ t.py.read j ≠ s.py.read j) :
    ∃ i, decode w = .ok i ∧ storesPoint i j = true := by
  unfold completeWord at h
  split at h
  next i hi =>
    refine ⟨i, hi, by_contra fun hj => ?_⟩
    obtain ⟨hx, hy⟩ := exec_point_read h (Bool.not_eq_true _ ▸ hj)
    exact hne.elim (· hx) (· hy)
  next => cases h; exact absurd hne (by simp)

/-- Settles O26: a step that changes an entry is the end of the initialisation or the completion of a command. -/
theorem arraysAreWrittenOnlyByTheirCommands : Obligations.ArraysAreWrittenOnlyByTheirCommands := by
  intro s t j h hna
  cases step_cases h with
  | initEnds hi hd => exact ⟨fun _ => .inl ⟨hi, hd⟩, fun _ => .inl ⟨hi, hd⟩⟩
  | completes w _ hr ht _ =>
    refine ⟨fun hne => .inr ?_, fun hne => .inr ?_⟩
    · obtain ⟨i, hi, hs⟩ := completeWord_coef_read_ne ht hne
      exact ⟨w, i, hr, hi, hs⟩
    · obtain ⟨i, hi, hs⟩ := completeWord_point_read_ne ht hne
      exact ⟨w, i, hr, hi, hs⟩
  | asserts ops hn => exact absurd hn (hna ops)
  | passes | reads | writes | releases => exact ⟨fun hne => absurd (by simp) hne, fun hne => absurd hne (by simp)⟩

/-! ## The host reads nothing of the arrays -/

/-- The state with other arrays. -/
def State.withArrays (s : State) (c x y : Memory) : State := { s with coef := c, px := x, py := y }

/-- An answer with the arrays of the next state exchanged. -/
def outcomeWithArrays (c x y : Memory) : Host.Outcome State Fault Refusal → Host.Outcome State Fault Refusal
  | .next t => .next (t.withArrays c x y)
  | .fault r => .fault r
  | .refused r => .refused r

theorem writeReg_withArrays (s : State) (c x y : Memory) (r : Reg) (w : Word) :
    (s.withArrays c x y).writeReg r w = (s.writeReg r w).withArrays c x y := by
  cases r with
  | cmd => exact (apply_ite (State.withArrays · c x y) s.accepts (s.accept w) s.refuse).symm
  | ctrl => exact (apply_ite (State.withArrays · c x y) (w.getLsbD 0) s.clearErrors s).symm
  | status | result | info | rsvd14 | rsvd18 | rsvd1C => rfl

theorem busRead_withArrays (s : State) (c x y : Memory) (acc : Access)
    {cont cont' : Word → Host.Outcome State Fault Refusal}
    (hcont : ∀ w, cont' w = outcomeWithArrays c x y (cont w)) :
    busRead (s.withArrays c x y) acc cont' = outcomeWithArrays c x y (busRead s acc cont) := by
  have hreach : (s.withArrays c x y).reach acc = s.reach acc := rfl
  rw [busRead, busRead, hreach]
  cases s.reach acc with
  | error e => rfl
  | ok r =>
    have hread : (s.withArrays c x y).readReg r = s.readReg r := readReg_with_arrays s c x y r
    exact (congrArg cont' hread).trans (hcont _)

/-- R22: what the host and the platform do is the same whatever the arrays hold, and leaves them. -/
theorem hostTurn_withArrays (op : HostOp) (s : State) (c x y : Memory) :
    hostTurn op (s.withArrays c x y) = outcomeWithArrays c x y (hostTurn op s) := by
  cases op with
  | read | rd =>
    rw [hostTurn, hostTurn]
    exact busRead_withArrays s c x y _ fun _ => rfl
  | write acc w =>
    have hreach : (s.withArrays c x y).reach acc = s.reach acc := rfl
    rw [hostTurn, hostTurn, busWrite, busWrite, hreach]
    cases s.reach acc with
    | error e => rfl
    | ok r => exact congrArg Host.Outcome.next (writeReg_withArrays s c x y r w)
  | wait | check | bootClear | bootInfo =>
    rw [hostTurn, hostTurn]
    refine busRead_withArrays s c x y _ fun w => ?_
    split <;> rfl
  | assertReset | releaseReset => rfl

/-- The arrays are as before after what the host and the platform do: exchanged for themselves they stay. -/
theorem hostTurn_arrays {op : HostOp} {s t : State} (h : hostTurn op s = .next t) :
    t.coef = s.coef ∧ t.px = s.px ∧ t.py = s.py := by
  have hself := hostTurn_withArrays op s s.coef s.px s.py
  have hsame : s.withArrays s.coef s.px s.py = s := rfl
  rw [hsame, h] at hself
  have ht : t = t.withArrays s.coef s.px s.py := Host.Outcome.next.inj hself
  rw [ht]
  exact ⟨rfl, rfl, rfl⟩

/-- Settles O27: the host's turn is that of `hostTurn`, which does the same on exchanged arrays. -/
theorem hostAccessesLearnNothingOfTheArrays : Obligations.HostAccessesLearnNothingOfTheArrays := by
  intro s c x y op ops hn
  have hn' : (s.withArrays c x y).HostNext op ops := ⟨hn.host, hn.turn⟩
  have hstep : step (s.withArrays c x y) = outcomeWithArrays c x y (step s) := by
    rw [step_host hn, step_host hn']
    exact hostTurn_withArrays op (s.tick.setHost ops) c x y
  refine ⟨fun t ht => ⟨c, x, y, ?_, fun _ => ⟨rfl, rfl, rfl, ?_⟩⟩, fun f hf => ?_, fun e he => ?_⟩
  · exact hstep.trans (by rw [ht]; rfl)
  · rw [step_host hn] at ht
    exact hostTurn_arrays (s := s.tick.setHost ops) ht
  · exact hstep.trans (by rw [hf]; rfl)
  · exact hstep.trans (by rw [he]; rfl)

end Sys2Proof.Machine
end

section
/-! What the host sees and does (10_state.md R16, 30_encoding.md R52, 60_exceptions.md R84, 70_reset_and_hazards.md
R94, R96): the fields of STATUS, the operations of host programs, and where a completion falls between two accesses. -/

namespace Sys2Proof.Machine

/-! ## The fields of STATUS -/

@[simp] theorem statusBusy_statusWord (s : State) : statusBusy s.statusWord = s.busy := by
  simp only [statusBusy, State.statusWord, BitVec.getLsbD_append]
  simp

@[simp] theorem statusDone_statusWord (s : State) : statusDone s.statusWord = s.done := by
  simp only [statusDone, State.statusWord, BitVec.getLsbD_append]
  simp

@[simp] theorem statusOvr_statusWord (s : State) : statusOvr s.statusWord = s.ovr := by
  simp only [statusOvr, State.statusWord, BitVec.getLsbD_append]
  simp

/-- R16: bit 3 of STATUS reads 0. -/
theorem statusWord_bit3 (s : State) : s.statusWord.getLsbD 3 = false := by
  simp only [State.statusWord, BitVec.getLsbD_append]
  simp

@[simp] theorem statusErr_statusWord (s : State) : statusErr s.statusWord = s.err := by
  unfold statusErr State.statusWord
  simp (disch := decide) only [BitVec.extractLsb'_append_eq_of_le]
  exact BitVec.extractLsb'_append_eq_right

@[simp] theorem statusErrInfo_statusWord (s : State) : statusErrInfo s.statusWord = s.errInfo := by
  unfold statusErrInfo State.statusWord
  simp (disch := decide) only [BitVec.extractLsb'_append_eq_of_le]
  exact BitVec.extractLsb'_append_eq_right

/-- R16: bits 31:16 of STATUS read 0. -/
theorem statusWord_high (s : State) : s.statusWord.extractLsb' 16 16 = 0#16 := by
  unfold State.statusWord
  simp (disch := decide) only [BitVec.extractLsb'_append_eq_of_le]
  exact BitVec.extractLsb'_eq_self

/-- Settles O14: each field of the concatenation is found at its place. -/
theorem statusWordHoldsTheFields : Obligations.StatusWordHoldsTheFields := fun s =>
  ⟨accessReg_regAccess s.cfg .status, rfl, statusBusy_statusWord s, statusDone_statusWord s, statusOvr_statusWord s,
    statusWord_bit3 s, statusErr_statusWord s, statusErrInfo_statusWord s, statusWord_high s⟩

/-- R52: what `check` asks of the core. -/
theorem checkPasses_statusWord (s : State) :
    checkPasses s.statusWord = true ↔ s.done = true ∧ s.ovr = false ∧ s.err = 0#4 := by
  simp [checkPasses, and_assoc]

/-- R94: what the boot's third step asks of the core. -/
theorem infoFits_infoWord (cfg : Config) (poly : Byte) :
    infoFits (infoWord cfg) poly = true ↔ poly = cfg.fieldPoly.extractLsb' 0 8 := by
  simp only [infoFits, infoWord_width, infoWord_ifver, infoWord_poly, beq_self_eq_true, Bool.and_self, Bool.true_and,
    beq_iff_eq]
  exact eq_comm

/-! ## The operations of host programs -/

/-- R52, R94: while reset is released an operation that reads a register goes on with the register's word. -/
theorem busRead_regAccess {s : State} (hr : s.resetIn = false) (ops : List HostOp) (r : Reg)
    (cont : Word → Host.Outcome State Fault Refusal) :
    busRead (s.tick.setHost ops) (regAccess (s.tick.setHost ops).cfg r) cont = cont (s.readReg r) := by
  simp [busRead, reach_regAccess hr]

/-- R52: `wait` stays in front of the host's list while BUSY is set. -/
theorem step_wait {s : State} {ops : List HostOp} (hr : s.resetIn = false) (hn : s.HostNext .wait ops) :
    step s = .next (s.tick.setHost (if s.busy then .wait :: ops else ops)) := by
  rw [step_host hn, hostTurn, busRead_regAccess hr]
  simp only [State.readReg, statusBusy_statusWord]
  split <;> rfl

/-- R52: `rd` takes RES. -/
theorem step_rd {s : State} {name : Nat} {ops : List HostOp} (hr : s.resetIn = false)
    (hn : s.HostNext (.rd name) ops) : step s = .next ((s.tick.setHost ops).record name (s.res.setWidth 32)) := by
  rw [step_host hn, hostTurn, busRead_regAccess hr]
  have hres : fieldC s.resultWord = s.res := resultWord_res s
  simp only [State.readReg, hres]

/-- Settles O32: each operation reads one register and decides by its fields. -/
theorem hostChecksStopTheProgram : Obligations.HostChecksStopTheProgram := by
  intro s ops hr
  refine ⟨fun hn => ?check, fun poly hn => ?info, step_wait hr, fun name => step_rd hr, fun hn => ?clear⟩
  case check =>
    have hstep : step s = if checkPasses s.statusWord then .next (s.tick.setHost ops) else .fault .checkFailed := by
      rw [step_host hn, hostTurn, busRead_regAccess hr]
      rfl
    have hpasses := checkPasses_statusWord s
    rw [hstep]
    refine ⟨fun hpass => if_pos (hpasses.2 hpass), fun hfail => if_neg fun hpass => ?_⟩
    obtain ⟨hd, ho, he⟩ := hpasses.1 hpass
    simp [hd, ho, he] at hfail
  case info =>
    have hfits := infoFits_infoWord s.cfg poly
    have hstep : step s =
        if infoFits (infoWord s.cfg) poly then .next (s.tick.setHost ops) else .fault .infoMismatch := by
      rw [step_host hn, hostTurn, busRead_regAccess hr]
      rfl
    rw [hstep]
    exact ⟨fun hp => if_pos (hfits.2 hp), fun hp => if_neg fun hfit => hp (hfits.1 hfit)⟩
  case clear =>
    rw [step_host hn, hostTurn, busRead_regAccess hr]
    simp only [State.readReg, statusOvr_statusWord]
    split <;> rfl

/-! ## Waiting -/

/-- R36, R92: the core's own step, when it is due, leaves it with nothing to do and the host where it was. -/
theorem step_of_working_due {s : State} (hc : s.ChannelRules) (hw : s.working = true) (hd : s.delay = 0) :
    ∃ t, step s = .next t ∧ t.working = false ∧ t.busy = false ∧ t.host = s.host ∧ t.resetIn = s.resetIn := by
  cases hi : s.initialising with
  | true =>
    exact ⟨_, step_initEnds hi hd, by simp [State.working, hc.notBoth hi], by simp, by simp, by simp⟩
  | false =>
    obtain ⟨w, hp⟩ : ∃ w, s.pending = some w := by
      rw [State.working, hi, Bool.false_or] at hw
      exact Option.isSome_iff_exists.1 hw
    obtain ⟨t, ht, hcase⟩ := completeWord_cases w s
    obtain ⟨hb, hpt, hit⟩ := hcase.channel
    refine ⟨t, (step_ready ⟨hp, hi, hd⟩).trans ht, by simp [State.working, hit, hpt, hi], hb, ?_⟩
    cases hcase <;> exact ⟨rfl, rfl⟩

/-- A `wait` on a core with nothing to do lets the host go on. -/
theorem step_wait_of_idle {s : State} {ops : List HostOp} (hr : s.resetIn = false) (hh : s.host = .wait :: ops)
    (hw : s.working = false) (hb : s.busy = false) : step s = .next (s.tick.setHost ops) := by
  simpa [hb] using step_wait hr ⟨hh, .inl hw⟩

/-- R52: a `wait` ends once the delay has run down and the core has moved. -/
theorem exists_runSteps_wait {d : Nat} {s : State} {ops : List HostOp} (hc : s.ChannelRules) (hr : s.resetIn = false)
    (hh : s.host = .wait :: ops) (hd : s.delay = d) :
    ∃ k, k ≤ d + 2 ∧ ∃ t, runSteps k s = .next t ∧ t.host = ops ∧ t.busy = false := by
  cases hw : s.working with
  | false =>
    have hb : s.busy = false := hc.busy_iff.trans hw
    exact ⟨1, by omega, s.tick.setHost ops, runSteps_next (step_wait_of_idle hr hh hw hb), rfl, hb⟩
  | true =>
    induction d generalizing s with
    | zero =>
      obtain ⟨t, ht, hwt, hbt, hht, hrt⟩ := step_of_working_due hc hw hd
      have hlast := step_wait_of_idle (hrt.trans hr) (hht.trans hh) hwt hbt
      exact ⟨2, le_rfl, t.tick.setHost ops, (runSteps_next ht).trans (runSteps_next hlast), rfl, hbt⟩
    | succ d ih =>
      have hb : s.busy = true := hc.busy_iff.trans hw
      have hpoll : step s = .next (s.tick.setHost (.wait :: ops)) := by
        simpa [hb] using step_wait hr ⟨hh, .inr (by omega)⟩
      have hcp : (s.tick.setHost (.wait :: ops)).ChannelRules := hc.of_same rfl rfl rfl
      obtain ⟨k, hk, hrun⟩ := ih hcp hr rfl (by simp [hd]) hw
      exact ⟨k + 1, by omega, by rwa [runSteps_next hpoll]⟩

/-- Settles O10, by induction on the delay that is running. -/
theorem waitTerminates : Obligations.WaitTerminates :=
  fun _ _ hinv hr hh => exists_runSteps_wait hinv.channel hr hh rfl

/-! ## A command and the access after it -/

/-- R32: the core after the host's CMD write has been accepted. -/
def State.issued (s : State) (w : Word) (ops : List HostOp) : State :=
  { s with
    pending := some w, busy := true, done := false, host := ops
    delay := nextDelay s.delays, delays := s.delays.tail }

theorem step_issue_of_accepts {s : State} {w : Word} {ops : List HostOp} (hc : s.ChannelRules) (ha : s.accepts = true)
    (hr : s.resetIn = false) (hh : s.host = issueOp s.cfg w :: ops) : step s = .next (s.issued w ops) := by
  have hclear := State.accepts_iff.1 ha
  have hturn : s.working = false := hc.busy_iff.symm.trans hclear.1
  exact (cmdWriteIsAcceptedOrRefused s w ops ⟨hh, .inl hturn⟩ hr).1 hclear

/-- R33: the host's CMD write while BUSY is set. -/
theorem step_issue_of_busy {s : State} {w : Word} {ops : List HostOp} (hb : s.busy = true) (hr : s.resetIn = false)
    (hn : s.HostNext (issueOp s.cfg w) ops) : step s = .next { s with ovr := true, host := ops, delay := s.delay - 1 } :=
  (cmdWriteIsAcceptedOrRefused s w ops hn hr).2 (.inl hb)

/-- R23: a core that accepts has been initialised. -/
theorem State.ChannelRules.started_of_accepts {s : State} (hc : s.ChannelRules) (ha : s.accepts = true) :
    s.initialising = false := by
  by_contra hi
  rw [hc.accepts_of_initialising (by simpa using hi)] at ha
  cases ha

/-- R36, R61: the core after an accepted GF_MUL has completed. -/
def State.multiplied (s : State) (a b : Byte) (ops : List HostOp) : State :=
  ((s.issued (encode (.gfMul a b)) ops).setRes (gfMul s.cfg.fieldPoly a b)).succeed

/-- A GF_MUL whose delay is 0 completes before the host's next operation. -/
theorem runSteps_multiplied {s : State} {a b : Byte} {ops : List HostOp} (hc : s.ChannelRules) (ha : s.accepts = true)
    (hr : s.resetIn = false) (hh : s.host = issueOp s.cfg (encode (.gfMul a b)) :: ops) (hd : nextDelay s.delays = 0)
    (k : Nat) : runSteps (k + 2) s = runSteps k (s.multiplied a b ops) := by
  have hready : (s.issued (encode (.gfMul a b)) ops).Ready (encode (.gfMul a b)) := ⟨rfl, hc.started_of_accepts ha, hd⟩
  have hdone : step (s.issued (encode (.gfMul a b)) ops) = .next (s.multiplied a b ops) :=
    step_of_decode_ok hready (decode_encode _)
  rw [runSteps_next (step_issue_of_accepts hc ha hr hh), runSteps_next hdone]

/-- R32, R36: the completion leaves the core idle and ready to accept again. -/
theorem multiplied_accepts {s : State} (hc : s.ChannelRules) (ha : s.accepts = true) (a b : Byte) (ops : List HostOp) :
    (s.multiplied a b ops).ChannelRules ∧ (s.multiplied a b ops).accepts = true := by
  obtain ⟨-, he, ho⟩ := State.accepts_iff.1 ha
  exact ⟨.of_idle rfl rfl (hc.started_of_accepts ha), State.accepts_iff.2 ⟨rfl, he, ho⟩⟩

/-- Settles O13: with the delay 0 the completion comes between the two accesses, with the delay 1 after them. -/
theorem resultReadMayComeBeforeOrAfterCompletion : Obligations.ResultReadMayComeBeforeOrAfterCompletion := by
  intro s a b name w' ops ds hinv ha hr
  have hc : ∀ d, ({ s with delays := d :: ds } : State).ChannelRules := fun d => hinv.channel.of_same rfl rfl rfl
  refine ⟨fun hh => ⟨?readNew, ?readOld⟩, fun hh => ⟨?accepted, ?refused⟩⟩
  case readNew =>
    have hread : step (State.multiplied { s with delays := 0 :: ds } a b (.rd name :: ops)) = .next _ :=
      step_rd hr ⟨rfl, .inl ((multiplied_accepts (hc 0) ha a b _).1.busy_iff.symm)⟩
    exact ⟨_, (runSteps_multiplied (hc 0) ha hr hh rfl 1).trans (runSteps_next hread), rfl, rfl⟩
  case readOld =>
    have hread : step (State.issued { s with delays := 1 :: ds } (encode (.gfMul a b)) (.rd name :: ops)) = .next _ :=
      step_rd hr ⟨rfl, .inr Nat.one_pos⟩
    exact ⟨_, (runSteps_next (step_issue_of_accepts (hc 1) ha hr hh)).trans (runSteps_next hread), rfl, rfl⟩
  case accepted =>
    obtain ⟨hct, hat⟩ := multiplied_accepts (hc 0) ha a b (issueOp s.cfg w' :: ops)
    have hissue := step_issue_of_accepts (w := w') (ops := ops) hct hat hr rfl
    refine ⟨_, (runSteps_multiplied (hc 0) ha hr hh rfl 1).trans (runSteps_next hissue), rfl, ?_⟩
    exact (State.accepts_iff.1 hat).2.2
  case refused =>
    have hrefuse := step_issue_of_busy (w := w') (ops := ops)
      (s := State.issued { s with delays := 1 :: ds } (encode (.gfMul a b)) (issueOp s.cfg w' :: ops))
      rfl hr ⟨rfl, .inr Nat.one_pos⟩
    exact ⟨_, (runSteps_next (step_issue_of_accepts (hc 1) ha hr hh)).trans (runSteps_next hrefuse), rfl, rfl⟩

/-! ## The return from an error, and the model's choices at reset -/

/-- Settles O31: with ERR set the core is not busy, so a cleared record is all that acceptance asks for. -/
theorem ctrlClearRestoresAcceptance : Obligations.CtrlClearRestoresAcceptance := by
  intro s hinv he
  have hb : s.busy = false := by
    by_contra hb
    exact he (hinv.status.busy_noErr (by simpa using hb))
  have hclear : s.writeReg .ctrl 0x00000001#32 = s.clearErrors := s.writeCtrl_of_clr rfl
  have haccepts : s.clearErrors.accepts = true := State.accepts_iff.2 ⟨hb, rfl, rfl⟩
  refine ⟨fun w => ?_, ?_⟩
  · have hrefuse : s.writeReg .cmd w = s.refuse := State.writeCmd_of_err he w
    rw [hrefuse]
    exact ⟨rfl, rfl, rfl⟩
  · rw [hclear]
    refine ⟨rfl, rfl, rfl, haccepts, fun w => ?_⟩
    have haccept : s.clearErrors.writeReg .cmd w = s.clearErrors.accept w := State.writeCmd_of_accepts haccepts w
    rw [haccept]
    rfl

/-- Settles O57: `State.assertReset` touches no array or table, and the end of the initialisation does not ask for the
level of the reset input. -/
theorem modelsChoicesAtReset : Obligations.ModelsChoicesAtReset := by
  refine ⟨fun s ops hn => ⟨(s.tick.setHost ops).assertReset, step_host hn, by simp⟩, fun s hi hd hr => ?_⟩
  exact ⟨s.endInit, step_initEnds hi hd, by simp, by simp, by simp [hr], by simp⟩

end Sys2Proof.Machine
end

section
/-! INTERP0 as polynomial interpolation (42_lagrange.md R70, R72): the bytes under the operations of a legal P(x) are a
field, over which the sum of R70 is the value at 0 of the one polynomial of degree below k through the k points. -/

namespace Sys2Proof.Machine

open Polynomial

/-! ## The field of bytes -/

@[simp] theorem gfInv_zero (p : BitVec 9) : gfInv p 0x00#8 = 0x00#8 := by
  rw [gfInv_eq_gfPow, gfPow, gfMul_zero]

/-- R59: the bytes are a field. -/
abbrev gfField {p : BitVec 9} (hp : p ∈ Config.legalPolys) : Field Byte :=
  @Field.ofMinimalAxioms Byte ⟨gfAdd⟩ ⟨gfMul p⟩ ⟨id⟩ ⟨gfInv p⟩ ⟨0x00#8⟩ ⟨0x01#8⟩
    BitVec.xor_assoc (fun _ => BitVec.zero_xor) (fun _ => BitVec.xor_self)
    (gfMul_assoc p) (gfMul_comm p) (one_gfMul p) (fun _ => gfMul_gfInv hp) (gfInv_zero p)
    (gfMul_xor_right p) ⟨0x00#8, 0x01#8, by decide⟩

/-- `φ` reads bytes as elements of the field `K`, in which the operations are those of P(x). -/
structure ReadsBytes (p : BitVec 9) {K : Type} [Field K] (φ : Byte → K) : Prop where
  injective : Function.Injective φ
  zero : φ 0x00#8 = 0
  one : φ 0x01#8 = 1
  add : ∀ a b, φ (gfAdd a b) = φ a + φ b
  mul : ∀ a b, φ (gfMul p a b) = φ a * φ b
  inv : ∀ a, φ (gfInv p a) = (φ a)⁻¹

/-- The bytes themselves, with the operations of `gfField` in place of the arithmetic of `BitVec`. -/
theorem exists_readsBytes {p : BitVec 9} (hp : p ∈ Config.legalPolys) :
    ∃ (K : Type) (_ : Field K) (φ : Byte → K), ReadsBytes p φ :=
  letI := gfField hp
  ⟨Byte, gfField hp, id, Function.injective_id, rfl, rfl, fun _ _ => rfl, fun _ _ => rfl, fun _ => rfl⟩

section Field
variable {p : BitVec 9} {K : Type} [Field K] {φ : Byte → K} (h : ReadsBytes p φ)
include h

theorem ReadsBytes.div (a b : Byte) : φ (gfDiv p a b) = φ a / φ b := by
  rw [gfDiv, h.mul, h.inv, div_eq_mul_inv]

theorem ReadsBytes.pow (a : Byte) (n : Nat) : φ (gfPow p a n) = φ a ^ n := by
  induction n with
  | zero => rw [gfPow, h.one, pow_zero]
  | succ n ih => rw [gfPow, h.mul, ih, pow_succ]

/-- Addition is its own inverse (R53), so signs do not matter. -/
theorem ReadsBytes.neg (c : K) : -c = c := by
  have htwo : (1 : K) + 1 = 0 := by
    rw [← h.one, ← h.add, ← h.zero]
    rfl
  refine neg_eq_of_add_eq_zero_left ?_
  rw [← mul_one c, ← mul_add, htwo, mul_zero]

/-! ## The sums as polynomials -/

/-- The polynomial of which `polyValue` gives the values. -/
noncomputable def coefPoly (φ : Byte → K) (coef : Memory) (n : Nat) : K[X] :=
  ∑ i ∈ Finset.range n, C (φ (coef.entry i)) * X ^ i

theorem ReadsBytes.polyValue_eq_eval (coef : Memory) (x : Byte) (n : Nat) :
    φ (polyValue p coef x n) = (coefPoly φ coef n).eval (φ x) := by
  induction n with
  | zero => simp [polyValue, coefPoly, h.zero]
  | succ n ih =>
    rw [coefPoly] at ih
    rw [coefPoly, Finset.sum_range_succ, polyValue, h.add, h.mul, h.pow, ih]
    simp

omit h in
theorem degree_coefPoly_lt (coef : Memory) (n : Nat) : (coefPoly φ coef n).degree < n := by
  refine (degree_sum_fin_lt fun i : Fin n => φ (coef.entry i)).trans_eq' ?_
  rw [coefPoly, Finset.sum_range]

omit h in
theorem eval_zero_coefPoly (coef : Memory) {n : Nat} (hn : 0 < n) : (coefPoly φ coef n).eval 0 = φ (coef.entry 0) := by
  simp [coefPoly, eval_finsetSum, zero_pow_eq, hn]

theorem ReadsBytes.basisAtZero_eq_prod (px : Memory) (i n : Nat) : φ (basisAtZero p px i n) =
    ∏ j ∈ (Finset.range n).erase i, φ (px.entry j) / (φ (px.entry j) + φ (px.entry i)) := by
  induction n with
  | zero => simpa [basisAtZero] using h.one
  | succ n ih =>
    rw [basisAtZero, Finset.range_add_one]
    split
    next hn =>
      subst hn
      rw [ih, Finset.erase_insert Finset.notMem_range_self, Finset.erase_eq_of_notMem Finset.notMem_range_self]
    next hn =>
      have hmem : n ∉ (Finset.range n).erase i := fun hn => Finset.notMem_range_self (Finset.mem_of_mem_erase hn)
      rw [Finset.erase_insert_of_ne hn, Finset.prod_insert hmem, h.mul, h.div, h.add, ih, mul_comm]

theorem ReadsBytes.interpolationSum_eq_sum (px py : Memory) (k m : Nat) : φ (interpolationSum p px py k m) =
    ∑ i ∈ Finset.range m, φ (py.entry i) *
      ∏ j ∈ (Finset.range k).erase i, φ (px.entry j) / (φ (px.entry j) + φ (px.entry i)) := by
  induction m with
  | zero => exact h.zero
  | succ m ih => rw [interpolationSum, h.add, h.mul, ih, h.basisAtZero_eq_prod, Finset.sum_range_succ]

/-- Ids that are distinct bytes are distinct elements of the field. -/
theorem ReadsBytes.injOn_entry {px : Memory} {k : Nat} (hg : GoodPoints px k) :
    Set.InjOn (fun i => φ (px.entry i)) (Finset.range k) := by
  intro i hi j hj hij
  have heq : px.entry i = px.entry j := h.injective hij
  rw [Finset.coe_range] at hi hj
  by_contra hne
  rcases Nat.lt_or_gt_of_ne hne with hlt | hgt
  · exact hg.distinct i j hlt hj heq
  · exact hg.distinct j i hgt hi heq.symm

/-- R70: the sum over k points is the value at 0 of every polynomial of degree below k through the points. -/
theorem ReadsBytes.interpolationSum_eq_eval_zero {px py : Memory} {k : Nat} (hg : GoodPoints px k) {f : K[X]}
    (hf : f.degree < k) (hy : ∀ i, i < k → f.eval (φ (px.entry i)) = φ (py.entry i)) :
    φ (interpolationSum p px py k k) = f.eval 0 := by
  have hcard : f.degree < (Finset.range k).card := by rwa [Finset.card_range]
  rw [h.interpolationSum_eq_sum, Lagrange.eq_interpolate (h.injOn_entry hg) hcard, Lagrange.interpolate_apply,
    eval_finsetSum]
  refine Finset.sum_congr rfl fun i hi => ?_
  rw [eval_mul, eval_C, hy i (Finset.mem_range.1 hi), Lagrange.basis, eval_prod]
  congr 1
  refine Finset.prod_congr rfl fun j _ => ?_
  rw [Lagrange.basisDivisor, eval_mul, eval_C, eval_sub, eval_X, eval_C, zero_sub, h.neg, sub_eq_add_neg, h.neg,
    add_comm, div_eq_inv_mul]

end Field

/-! ## What INTERP0 gives -/

/-- R72 (a): points on a polynomial of at most k coefficients give its constant coefficient. -/
theorem interpolationSum_polyValue {p : BitVec 9} (hp : p ∈ Config.legalPolys) {px py coef : Memory} {n k : Nat}
    (hg : GoodPoints px k) (hn : 0 < n) (hnk : n ≤ k)
    (hy : ∀ i, i < k → py.entry i = polyValue p coef (px.entry i) n) :
    interpolationSum p px py k k = coef.entry 0 := by
  obtain ⟨K, _, φ, h⟩ := exists_readsBytes hp
  have hdeg : (coefPoly φ coef n).degree < k := (degree_coefPoly_lt coef n).trans_le (by exact_mod_cast hnk)
  refine h.injective ?_
  rw [h.interpolationSum_eq_eval_zero hg hdeg fun i hi => by rw [hy i hi, h.polyValue_eq_eval],
    eval_zero_coefPoly coef hn]

/-- R72 (d). -/
theorem interpolationSum_const {p : BitVec 9} (hp : p ∈ Config.legalPolys) {px py : Memory} {k : Nat} {c : Byte}
    (hg : GoodPoints px k) (hy : ∀ i, i < k → py.entry i = c) : interpolationSum p px py k k = c := by
  obtain ⟨K, _, φ, h⟩ := exists_readsBytes hp
  have hdeg : (C (φ c)).degree < (k : WithBot ℕ) :=
    degree_C_le.trans_lt (by exact_mod_cast (Nat.zero_lt_two.trans_le hg.atLeastTwo))
  refine h.injective ?_
  rw [h.interpolationSum_eq_eval_zero hg hdeg fun i hi => by rw [hy i hi, eval_C], eval_C]

/-- R72 (c): two arrangements of the same points lie on the same polynomial. -/
theorem interpolationSum_of_points_mem {p : BitVec 9} (hp : p ∈ Config.legalPolys) {px py px' py' : Memory} {k : Nat}
    (hg : GoodPoints px k) (hg' : GoodPoints px' k)
    (hmem : ∀ j, j < k → ∃ i, i < k ∧ px.entry i = px'.entry j ∧ py.entry i = py'.entry j) :
    interpolationSum p px py k k = interpolationSum p px' py' k k := by
  obtain ⟨K, _, φ, h⟩ := exists_readsBytes hp
  have hinj := h.injOn_entry hg
  set f := Lagrange.interpolate (Finset.range k) (fun i => φ (px.entry i)) (fun i => φ (py.entry i))
  have hdeg : f.degree < k := (Lagrange.degree_interpolate_lt _ hinj).trans_eq (by rw [Finset.card_range])
  have hy : ∀ i, i < k → f.eval (φ (px.entry i)) = φ (py.entry i) := fun i hi =>
    Lagrange.eval_interpolate_at_node _ hinj (Finset.mem_range.2 hi)
  have hy' : ∀ j, j < k → f.eval (φ (px'.entry j)) = φ (py'.entry j) := fun j hj => by
    obtain ⟨i, hi, hxi, hyi⟩ := hmem j hj
    rw [← hxi, ← hyi, hy i hi]
  exact h.injective <| (h.interpolationSum_eq_eval_zero hg hdeg hy).trans
    (h.interpolationSum_eq_eval_zero hg' hdeg hy').symm

/-! ## Usable ids -/

/-- Usable ids as one list: no 0x00 in it and no byte twice. -/
theorem goodPoints_iff {px : Memory} {k : Nat} : GoodPoints px k ↔
    2 ≤ k ∧ k ≤ 255 ∧ 0x00#8 ∉ (List.range k).map px.entry ∧ ((List.range k).map px.entry).Nodup := by
  have hnonzero : 0x00#8 ∉ (List.range k).map px.entry ↔ ∀ i, i < k → px.entry i ≠ 0x00#8 := by simp
  have hdistinct : ((List.range k).map px.entry).Nodup ↔ ∀ i j, i < j → j < k → px.entry i ≠ px.entry j := by
    rw [List.Nodup, List.pairwise_iff_getElem]
    simp only [List.length_map, List.length_range, List.getElem_map, List.getElem_range]
    exact ⟨fun hn i j hij hj => hn i j (hij.trans hj) hj hij, fun hn i j _ hj hij => hn i j hij hj⟩
  rw [hnonzero, hdistinct]
  exact ⟨fun ⟨h2, h255, hz, hd⟩ => ⟨h2, h255, hz, hd⟩, fun ⟨h2, h255, hz, hd⟩ => ⟨h2, h255, hz, hd⟩⟩

/-- Ids in another order are as usable. -/
theorem GoodPoints.of_perm {px px' : Memory} {k : Nat} (hg : GoodPoints px k)
    (hperm : ((List.range k).map px.entry).Perm ((List.range k).map px'.entry)) : GoodPoints px' k := by
  rw [goodPoints_iff] at hg ⊢
  rwa [hperm.mem_iff, hperm.nodup_iff] at hg

/-! ## The properties of R72 -/

/-- R66: a POLY_EVAL of a legal count that has ended with DONE at a non-zero id has written the polynomial's value. -/
theorem res_of_exec_polyEval {x n : Byte} {s u : State} (h2 : 2 ≤ n.toNat) (h254 : n.toNat ≤ 254) (hx : x ≠ 0x00#8)
    (h : exec (.polyEval x n) s = .next u) : u.res = polyValue s.cfg.fieldPoly s.coef x n.toNat := by
  rw [exec_polyEval_of_ne_zero s h2 h254 hx] at h
  cases h
  rfl

/-- Settles O51: the shares are values of the polynomial of the coefficients, whose value at 0 is the secret. -/
theorem sharesRecoverTheSecret : Obligations.SharesRecoverTheSecret := by
  intro split combine n k hpoly h2 h254 hnk hg hshares
  have hy : ∀ i, i < k.toNat → combine.py.entry i =
      polyValue combine.cfg.fieldPoly split.coef (combine.px.entry i) n.toNat := fun i hi => by
    obtain ⟨u, hu, -, hyu⟩ := hshares i hi
    rw [hyu, res_of_exec_polyEval h2 h254 (hg.nonzero i hi) hu, hpoly]
  have hsum := interpolationSum_polyValue combine.cfg.poly_legal hg (by omega) hnk hy
  rw [exec_interp0_of_goodPoints combine hg, hsum]
  rfl

/-- Settles O53: usable ids stay usable in another order, and both orders lie on one polynomial. -/
theorem interpolationIgnoresTheOrderOfPoints : Obligations.InterpolationIgnoresTheOrderOfPoints := by
  intro s s' k hpoly hg hperm
  have hids : ((List.range k.toNat).map s.px.entry).Perm ((List.range k.toNat).map s'.px.entry) := by
    have hfst := hperm.map Prod.fst
    rwa [List.map_map, List.map_map] at hfst
  have hg' := hg.of_perm hids
  have hmem : ∀ j, j < k.toNat → ∃ i, i < k.toNat ∧ s.px.entry i = s'.px.entry j ∧ s.py.entry i = s'.py.entry j :=
    fun j hj => by simpa using hperm.mem_iff.2 (List.mem_map_of_mem (List.mem_range.2 hj))
  have hsum := interpolationSum_of_points_mem s.cfg.poly_legal hg hg' hmem
  refine ⟨_, _, exec_interp0_of_goodPoints s hg, exec_interp0_of_goodPoints s' hg', rfl, rfl, ?_⟩
  exact hsum.trans (by rw [hpoly]; rfl)

/-- Settles O54: the one y is the value of a constant polynomial, and for two points the sum of R70 is the formula. -/
theorem constantAndTwoPointInterpolation : Obligations.ConstantAndTwoPointInterpolation := by
  intro s k hg
  refine ⟨fun c hy => ?_, ?_⟩
  · rw [exec_interp0_of_goodPoints s hg, interpolationSum_const s.cfg.poly_legal hg hy]
    rfl
  · rintro rfl d rfl
    have hcomm : gfAdd (s.px.entry 1) (s.px.entry 0) = gfAdd (s.px.entry 0) (s.px.entry 1) := BitVec.xor_comm _ _
    have hsum := interpolationSum_two s.cfg.fieldPoly s.px s.py
    rw [hcomm] at hsum
    exact (exec_interp0_of_goodPoints s hg).trans (by rw [← hsum]; rfl)

/-! ## Too few shares -/

theorem State.Inv.setPoint {s : State} (h : s.Inv) (i x y : Byte) : (s.setPoint i x y).Inv :=
  ⟨h.status.of_same rfl rfl rfl id, h.channel.of_same rfl rfl rfl,
    ⟨h.memories.coef_wf, Memory.wf_write i x h.memories.px_wf, Memory.wf_write i y h.memories.py_wf,
      h.memories.exp_wf, h.memories.log_wf⟩, h.tables.of_same rfl rfl rfl id⟩

/-- The points (1, 1) and (2, 4) of the polynomial x^2, in the recommended core after its initialisation. -/
def squarePoints : State := (State.reset.endInit.setPoint 0x00#8 0x01#8 0x01#8).setPoint 0x01#8 0x02#8 0x04#8

/-- The same core with the coefficients of x^2. -/
def squareCoefs : State := squarePoints.setCoef 0x02#8 0x01#8

theorem squarePoints_inv : squarePoints.Inv := by
  have hreset : State.reset.Inv := resetMeetsTheInvariant Config.recommended
  have hended : State.reset.endInit.Inv := stepKeepsTheInvariant _ _ hreset (step_initEnds rfl rfl)
  exact (hended.setPoint _ _ _).setPoint _ _ _

theorem squarePoints_good : GoodPoints squarePoints.px 2 :=
  goodPoints_iff.2 ⟨le_rfl, by decide, by decide, by decide⟩

/-- The two points lie on the line 3·x + 2 too, which has the value 2 at 0. -/
theorem squarePoints_sum : interpolationSum squarePoints.cfg.fieldPoly squarePoints.px squarePoints.py 2 2 = 0x02#8 :=
  interpolationSum_polyValue (coef := [(0, 0x02#8), (1, 0x03#8)]) squarePoints.cfg.poly_legal squarePoints_good
    Nat.two_pos le_rfl (by decide)

/-- Settles O52: INTERP0 tests the ids alone; two points of x^2 give 0x02 in place of the secret 0x00. -/
theorem tooFewSharesRaiseNoErrorAndCanGiveAWrongByte :
    Obligations.TooFewSharesRaiseNoErrorAndCanGiveAWrongByte := by
  refine ⟨fun split combine n k _ _ hg _ => ⟨_, exec_interp0_of_goodPoints combine hg⟩,
    squareCoefs, squarePoints, rfl, squarePoints_inv, squarePoints_good, fun i hi => ?_,
    _, exec_interp0_of_goodPoints (k := 0x02#8) squarePoints squarePoints_good, rfl, rfl, ?_⟩
  · obtain rfl | rfl : i = 0 ∨ i = 1 := by omega
    · exact ⟨_, rfl, rfl, by decide⟩
    · exact ⟨_, rfl, rfl, by decide⟩
  · have hsecret : squareCoefs.coef.entry 0 = 0x00#8 := by decide
    rw [hsecret]
    exact squarePoints_sum.trans_ne (by decide)

end Sys2Proof.Machine
end
